-- ==== Sys2Proof/Word.lean ====
section
/-! DEFINITION. The words of the SLCAN-GW block: bytes and identifiers (spec/00_scope.md R6). -/

namespace Sys2Proof

/-- A byte is 8 bits (R6). -/
abbrev Byte := BitVec 8

/-- A CAN identifier register. An identifier that meets R13 has at most 29 bits; the type holds the 32 bits
that eight hex digits can spell (R80), because `ID_RANGE_POLICY = keep` stores the value as spelled (R105; log 19). -/
abbrev CanId := BitVec 32

end Sys2Proof
end

