-- ==== Sys2Proof/Config.lean ====
section
/-! DEFINITION. The implementation parameters of the block (spec/00_scope.md R5). "The model takes the following
parameters as arguments": State carries one `Config` that no step changes (log 1), so every statement about every
state is a statement about every choice of the parameters. -/

namespace Sys2Proof

/-! ## The open policies -/

/-- The two readings of what hex digits beyond the consumed ones do (R109, 90_conflicts.md C3). -/
inductive ExcessReading
  | invalid  -- the line is Invalid
  | ignore   -- the extra digits are left unread
  deriving DecidableEq, Repr, Inhabited

/-- The three readings of an identifier above its width's maximum (R105, 90_conflicts.md C5). -/
inductive IdRangeReading
  | invalid  -- the line is Invalid
  | keep     -- the value is stored as spelled
  | mask     -- the value AND the maximum is stored
  deriving DecidableEq, Repr, Inhabited

/-- The three readings of the bus-error handler at or past its threshold (R256). -/
inductive BerrReading
  | eq       -- only the error that reaches the threshold trips
  | ge       -- every error from the threshold on trips
  | geReset  -- as `ge`, and counting restarts after each trip
  deriving DecidableEq, Repr, Inhabited

/-- How an OPEN policy with listed readings is set. `unset`: "a model treats [the line] as `refuse`" (R105, R109).
`set r`: the hardware has reading `r`. `free`: the hardware has one of the readings and nothing says which; the
opaque constants below stand for it (logs 7, 8). -/
inductive Policy (α : Type)
  | unset
  | set (r : α)
  | free
  deriving DecidableEq, Repr

/-- `SUBMIT_FULL_POLICY` (R215, R263): OPEN with no reading listed. `unset`: the situation is refused. `environment`: the worker
goes on as R215 says ("examines no result of the submit") and the environment answers what its FIFO then holds (log 9). -/
inductive SubmitFullPolicy
  | unset
  | environment
  deriving DecidableEq, Repr

/-- FREE VALUE (log 7): the reading of `EXCESS_POLICY` the implementation has, where `cfg.excessPolicy = free`. -/
opaque Config.freeExcess : ExcessReading

/-- FREE VALUE (log 8): the reading of `ID_RANGE_POLICY` the implementation has, where `cfg.idRangePolicy = free`. -/
opaque Config.freeIdRange : IdRangeReading

/-! ## Tables -/

/-- What a command byte selects: one of the seven control tags (R11), by family. -/
inductive ControlTag
  | setBitrate
  | setMode
  | setAutoRetry
  | openChannel
  | closeChannel
  | getVersion
  | reportError
  deriving DecidableEq, Repr

/-- `CMDCHAR`: the command bytes of the seven control commands, OPEN (R78, D1): the one byte of each that encode emits. A second
spelling of a control command, which R78 leaves open, is an entry of `Config.cmdAliases` (log 37). -/
structure CmdChars where
  setBitrate   : Byte
  setMode      : Byte
  setAutoRetry : Byte
  openChannel  : Byte
  closeChannel : Byte
  getVersion   : Byte
  reportError  : Byte
  deriving DecidableEq, Repr

/-- `VALTAB[cmd]` and `VALCHAR[cmd]` of one one-value command, OPEN (R160, D2, D39). A value is a symbol (log 21).
`ofDigit`: entry `v` is the value of digit `v`; a missing entry or `none` is undefined. `toChar`: the byte encode emits for a value. -/
structure ValTable where
  ofDigit : List (Option Nat)
  toChar  : List (Nat × Byte)
  deriving DecidableEq, Repr

/-- The parameters of R5, every one but `TICK`, which R5 calls "not modelled" (log 27). -/
structure Config where
  /-- `OUTQ_CAP` -/
  outQCap : Nat
  /-- `INQ_CAP` -/
  inQCap : Nat
  /-- `DROP_THRESHOLD`: the breaker is open when `dropCount` exceeds it -/
  dropThreshold : Nat
  /-- `ERR_THRESHOLD`: the bus-error handler trips when `errCount` reaches it -/
  errThreshold : Nat
  /-- `ROOM_TIMEOUT_TICKS`; time is not modelled, so no rule reads it (D27, log 27) -/
  roomTimeoutTicks : Nat
  /-- `USB_RETRY_DELAY_TICKS`; likewise (D27, log 27) -/
  usbRetryDelayTicks : Nat
  /-- `USB_RETRIES`: retries after the first USB queue attempt (log 38) -/
  usbRetries : Nat
  /-- `MAX_DLC` -/
  maxDlc : Nat
  /-- `STD_ID_DIGITS` -/
  stdIdDigits : Nat
  /-- `EXT_ID_DIGITS` -/
  extIdDigits : Nat
  /-- `STD_ID_MAX` -/
  stdIdMax : Nat
  /-- `EXT_ID_MAX` -/
  extIdMax : Nat
  /-- `TERMINATOR` -/
  terminator : Byte
  /-- `USB_BUF_SIZE` -/
  usbBufSize : Nat
  /-- `ATOMIC_COUNTERS` -/
  atomicCounters : Bool
  /-- `TXFIFO_DEPTH` -/
  txFifoDepth : Nat
  /-- `MAX_LINE` -/
  maxLine : Nat
  /-- `CMDCHAR` -/
  cmdChars : CmdChars
  /-- further spellings of the control commands, accepted by decode and never emitted: the model's form of what R78 leaves open (log 37) -/
  cmdAliases : List (Byte × ControlTag)
  /-- `VALTAB[SetBitrate]`, `VALCHAR[SetBitrate]` -/
  bitrates : ValTable
  /-- `VALTAB[SetMode]`, `VALCHAR[SetMode]` -/
  modes : ValTable
  /-- `VALTAB[SetAutoRetry]`, `VALCHAR[SetAutoRetry]` -/
  autoRetries : ValTable
  /-- `EXCESS_POLICY` -/
  excessPolicy : Policy ExcessReading
  /-- `ID_RANGE_POLICY` -/
  idRangePolicy : Policy IdRangeReading
  /-- `SUBMIT_FULL_POLICY` -/
  submitFullPolicy : SubmitFullPolicy
  /-- `BERR_POST_TRIP`; `none`: unset, "a model admits all three behaviours at each event" (R256; log 10) -/
  berrPostTrip : Option BerrReading
  deriving DecidableEq, Repr

/-- The table whose defined digits are `0 .. n-1` and whose value of digit `v` is the symbol `v` (log 4). -/
def ValTable.upTo (n : Nat) : ValTable where
  ofDigit := (List.range n).map some
  toChar  := (List.range n).map fun v => (v, BitVec.ofNat 8 (0x30 + v))

/-- The configuration at reset: the defaults of R5 (log 2); no second spelling of a control command (DESIGN CHOICE, log 37); the suggested command bytes of R78 (PRESUMED, log 3) and the
value tables of 95_test_vectors.md (PRESUMED, log 4); `TXFIFO_DEPTH` and `MAX_LINE` (DESIGN CHOICE, logs 5, 6); the
policies left open (logs 7 to 10). -/
def Config.default : Config where
  outQCap := 15
  inQCap := 150
  dropThreshold := 5
  errThreshold := 5
  roomTimeoutTicks := 1
  usbRetryDelayTicks := 2
  usbRetries := 1
  maxDlc := 8
  stdIdDigits := 3
  extIdDigits := 8
  stdIdMax := 0x7FF
  extIdMax := 0x1FFFFFFF
  terminator := 0x0D
  usbBufSize := 27
  atomicCounters := false
  txFifoDepth := 3
  maxLine := 1024
  cmdChars :=
    { setBitrate := 0x53, setMode := 0x4D, setAutoRetry := 0x41, openChannel := 0x4F, closeChannel := 0x43,
      getVersion := 0x56, reportError := 0x45 }
  cmdAliases := []
  bitrates := .upTo 9
  modes := .upTo 2
  autoRetries := .upTo 2
  excessPolicy := .free
  idRangePolicy := .free
  submitFullPolicy := .environment
  berrPostTrip := none

end Sys2Proof
end

