-- ==== Sys2Proof/Syntax.lean ====
section
/-! DEFINITION. The commands of the block as syntax: the command tags (spec/10_state.md R11), the Frame record (R10, R13),
the decode-error labels (spec/60_exceptions.md R240) and `Instr`, one constructor per row of spec/opcode_table.json. -/

namespace Sys2Proof

/-- The four frame commands (R11): the tags for which `isFrameCmd` holds. -/
inductive FrameCmd
  | stdData
  | extData
  | stdRemote
  | extRemote
  deriving DecidableEq, Repr

/-- The three one-value control commands (R11). -/
inductive ValueCmd
  | setBitrate
  | setMode
  | setAutoRetry
  deriving DecidableEq, Repr

/-- The four parameterless control commands (R11). -/
inductive PlainCmd
  | openChannel
  | closeChannel
  | getVersion
  | reportError
  deriving DecidableEq, Repr

/-- What a command byte selects (R78): one of the eleven valid tags, by family. -/
inductive Cmd
  | frame (c : FrameCmd)
  | value (c : ValueCmd)
  | plain (c : PlainCmd)
  deriving DecidableEq, Repr

/-- The causes of the Invalid result with the detail each records (R240 to R243). Positions are 0-based offsets into the
line (D8). -/
inductive DecodeError
  /-- `E_BADCMD`: the command byte is outside the table. -/
  | badCmd (c : Byte)
  /-- `E_BADCHAR`: the lowest body position that holds no hex digit, and its byte. -/
  | badChar (pos : Nat) (b : Byte)
  /-- `E_SHORT_ID`: fewer identifier digits than the width demands, at the position of the first. -/
  | shortId (pos : Nat)
  /-- `E_ID_RANGE`: the identifier as spelled. -/
  | idRange (id : Nat)
  /-- `E_SHORT_DLC`: no length nibble at this position. -/
  | shortDlc (pos : Nat)
  /-- `E_DLC_RANGE`: the length nibble's value. -/
  | dlcRange (len : Nat)
  /-- `E_SHORT_DATA`: the length demanded and the digits left. -/
  | shortData (len have_ : Nat)
  /-- `E_SHORT_VALUE`: no value byte at this position. -/
  | shortValue (pos : Nat)
  /-- `E_BADVALUE`: the value digit the table does not define. -/
  | badValue (v : Nat)
  /-- `E_EXCESS`: the cursor after the last field, and the stripped length. -/
  | excess (pos m : Nat)
  deriving DecidableEq, Repr

/-- A Frame of a frame command (R10): tag, identifier, the two flags, the length and the payload bytes. Only the
meaningful bytes `data[0..len-1]` are held (log 18). -/
structure BusFrame where
  cmd  : FrameCmd
  id   : CanId
  ext  : Bool
  rtr  : Bool
  len  : Nat
  data : List Byte
  deriving DecidableEq, Repr

/-- A Frame, "a sum type, one case per command family, each carrying only its relevant fields" (R13). An Invalid Frame has
no other field (R12). -/
inductive Frame
  | bus (f : BusFrame)
  | value (c : ValueCmd) (v : Nat)
  | plain (c : PlainCmd)
  | invalid
  deriving DecidableEq, Repr

/-- The instructions: SLCAN lines as decoded. -/
inductive Instr
  /-- `t`, transmit standard data frame (R140). -/
  | stdData (id : CanId) (len : Nat) (data : List Byte)
  /-- `T`, transmit extended data frame (R141). -/
  | extData (id : CanId) (len : Nat) (data : List Byte)
  /-- `r`, transmit standard remote frame (R142). -/
  | stdRemote (id : CanId)
  /-- `R`, transmit extended remote frame (R143). -/
  | extRemote (id : CanId)
  /-- `S`, set bitrate (R162). -/
  | setBitrate (value : Nat)
  /-- `M`, set mode (R163). -/
  | setMode (value : Nat)
  /-- `A`, set auto-retry (R164). -/
  | setAutoRetry (value : Nat)
  /-- `O`, open channel (R165). -/
  | openChannel
  /-- `C`, close channel (R166). -/
  | closeChannel
  /-- `V`, get version (R167). -/
  | getVersion
  /-- `E`, report error (R168). -/
  | reportError
  /-- `(invalid)`, the outcome of every failing decode, with the cause decode logs (R114, R169). -/
  | invalid (e : DecodeError)
  deriving DecidableEq, Repr

end Sys2Proof
end

