-- ==== Sys2Proof/WellFormed.lean ====
section
/-! DEFINITION. When an instruction meets the Frame invariant (spec/10_state.md R13) and the tables of its configuration:
exactly the instructions that have a line (spec/30_encoding.md R87). -/

namespace Sys2Proof

/-- The identifier fits its width (R13). -/
def idFits (max : Nat) (id : CanId) : Bool := decide (id.toNat ≤ max)

/-- The payload is at most `MAX_DLC` bytes and its length is the one declared (R13). -/
def payloadFits (cfg : Config) (len : Nat) (data : List Byte) : Bool := decide (len ≤ cfg.maxDlc) && decide (data.length = len)

/-- The value is in the range of the command's table (R160). -/
def valueFits (t : ValTable) (v : Nat) : Bool := t.ofDigit.contains (some v)

/-- Well-formed instructions. `invalid` is "never spelled on the wire" (R169): it has no line and is not well-formed. -/
def Instr.wf (cfg : Config) : Instr → Bool
  | .stdData id len data => idFits cfg.stdIdMax id && payloadFits cfg len data
  | .extData id len data => idFits cfg.extIdMax id && payloadFits cfg len data
  | .stdRemote id => idFits cfg.stdIdMax id
  | .extRemote id => idFits cfg.extIdMax id
  | .setBitrate v => valueFits cfg.bitrates v
  | .setMode v => valueFits cfg.modes v
  | .setAutoRetry v => valueFits cfg.autoRetries v
  | .openChannel => true
  | .closeChannel => true
  | .getVersion => true
  | .reportError => true
  | .invalid _ => false

end Sys2Proof
end

