-- ==== Sys2Proof/Decode.lean ====
section
/-! DEFINITION. The frame codec between ASCII lines and commands: the hex functions, decode, size and encode
(spec/30_encoding.md, spec/40_codec_operations.md R100 to R107, R109, R114 to R119), and the host's `decodeTableWord`. -/

namespace Sys2Proof

/-! ## What a tag fixes -/

/-- The identifier width of a frame command: upper case extended, lower case standard (R104, R144). -/
def FrameCmd.isExt : FrameCmd → Bool
  | .stdData => false
  | .extData => true
  | .stdRemote => false
  | .extRemote => true

/-- The frame type of a frame command: remote or data (R104, R144). -/
def FrameCmd.isRtr : FrameCmd → Bool
  | .stdData => false
  | .extData => false
  | .stdRemote => true
  | .extRemote => true

/-- The number of identifier digits on the wire (R80, R104). -/
def FrameCmd.idDigits (cfg : Config) (c : FrameCmd) : Nat := if c.isExt then cfg.extIdDigits else cfg.stdIdDigits

/-- The largest identifier of the tag's width (R13, R105). -/
def FrameCmd.idMax (cfg : Config) (c : FrameCmd) : Nat := if c.isExt then cfg.extIdMax else cfg.stdIdMax

/-- The Frame a frame command's fields make, its flags agreeing with its tag (R13, R104). -/
def mkBusFrame (c : FrameCmd) (id : CanId) (len : Nat) (data : List Byte) : BusFrame :=
  { cmd := c, id := id, ext := c.isExt, rtr := c.isRtr, len := len, data := data }

/-- A frame command's Frame meets R13: the flags agree with the tag, the identifier fits its width, the length is at most `MAX_DLC`
and its bytes are there. -/
def BusFrame.wf (cfg : Config) (f : BusFrame) : Bool :=
  decide (f.ext = f.cmd.isExt) && decide (f.rtr = f.cmd.isRtr) && decide (f.id.toNat ≤ f.cmd.idMax cfg) &&
    decide (f.len ≤ cfg.maxDlc) && decide (f.data.length = f.len)

/-- The Frame of a decoded instruction (R103 to R107, R114, R160). -/
def Instr.frame : Instr → Frame
  | .stdData id len data => .bus (mkBusFrame .stdData id len data)
  | .extData id len data => .bus (mkBusFrame .extData id len data)
  | .stdRemote id => .bus (mkBusFrame .stdRemote id 0 [])
  | .extRemote id => .bus (mkBusFrame .extRemote id 0 [])
  | .setBitrate v => .value .setBitrate v
  | .setMode v => .value .setMode v
  | .setAutoRetry v => .value .setAutoRetry v
  | .openChannel => .plain .openChannel
  | .closeChannel => .plain .closeChannel
  | .getVersion => .plain .getVersion
  | .reportError => .plain .reportError
  | .invalid _ => .invalid

/-! ## Hex digit functions -/

/-- `ishex(b)` (R100): the 22 bytes `'0'..'9'`, `'A'..'F'`, `'a'..'f'`. -/
def ishex (b : Byte) : Bool :=
  (decide (0x30 ≤ b.toNat) && decide (b.toNat ≤ 0x39)) || (decide (0x41 ≤ b.toNat) && decide (b.toNat ≤ 0x46)) ||
    (decide (0x61 ≤ b.toNat) && decide (b.toNat ≤ 0x66))

/-- `hexval(b)` (R101), "defined only when `ishex(b)`": decode asks it of validated bytes only, and what it answers for another
byte is read by no rule (log 32). -/
def hexval (b : Byte) : Nat :=
  if b.toNat ≤ 0x39 then b.toNat - 0x30 else if b.toNat ≤ 0x46 then b.toNat - 0x41 + 10 else b.toNat - 0x61 + 10

/-- `hexchar(v)` for `v` in 0..15, upper case only (R102). -/
def hexchar (v : Nat) : Byte := if v ≤ 9 then BitVec.ofNat 8 (0x30 + v) else BitVec.ofNat 8 (0x41 + (v - 10))

/-! ## Tables -/

/-- What a control tag is as a command. -/
def ControlTag.cmd : ControlTag → Cmd
  | .setBitrate => .value .setBitrate
  | .setMode => .value .setMode
  | .setAutoRetry => .value .setAutoRetry
  | .openChannel => .plain .openChannel
  | .closeChannel => .plain .closeChannel
  | .getVersion => .plain .getVersion
  | .reportError => .plain .reportError

/-- `CMD_OF_CHAR` (R78): the four frame rows of the source, then `CMDCHAR`, then the further spellings of a configuration that has
any (log 37); `none` is Invalid (R84). -/
def cmdOfChar (cfg : Config) (b : Byte) : Option Cmd :=
  if b = 0x74 then some (.frame .stdData)
  else if b = 0x54 then some (.frame .extData)
  else if b = 0x72 then some (.frame .stdRemote)
  else if b = 0x52 then some (.frame .extRemote)
  else if b = cfg.cmdChars.setBitrate then some (.value .setBitrate)
  else if b = cfg.cmdChars.setMode then some (.value .setMode)
  else if b = cfg.cmdChars.setAutoRetry then some (.value .setAutoRetry)
  else if b = cfg.cmdChars.openChannel then some (.plain .openChannel)
  else if b = cfg.cmdChars.closeChannel then some (.plain .closeChannel)
  else if b = cfg.cmdChars.getVersion then some (.plain .getVersion)
  else if b = cfg.cmdChars.reportError then some (.plain .reportError)
  else (cfg.cmdAliases.lookup b).map ControlTag.cmd

/-- `CHAR_OF_CMD` on the frame commands (R78). -/
def charOfFrameCmd : FrameCmd → Byte
  | .stdData => 0x74
  | .extData => 0x54
  | .stdRemote => 0x72
  | .extRemote => 0x52

/-- `CHAR_OF_CMD` on the one-value commands (R78). -/
def charOfValueCmd (cfg : Config) : ValueCmd → Byte
  | .setBitrate => cfg.cmdChars.setBitrate
  | .setMode => cfg.cmdChars.setMode
  | .setAutoRetry => cfg.cmdChars.setAutoRetry

/-- `CHAR_OF_CMD` on the parameterless commands (R78). -/
def charOfPlainCmd (cfg : Config) : PlainCmd → Byte
  | .openChannel => cfg.cmdChars.openChannel
  | .closeChannel => cfg.cmdChars.closeChannel
  | .getVersion => cfg.cmdChars.getVersion
  | .reportError => cfg.cmdChars.reportError

/-- `CHAR_OF_CMD` (R78): "the one byte listed". -/
def charOfCmd (cfg : Config) : Cmd → Byte
  | .frame c => charOfFrameCmd c
  | .value c => charOfValueCmd cfg c
  | .plain c => charOfPlainCmd cfg c

/-- The value table of a one-value command (R160). -/
def valTable (cfg : Config) : ValueCmd → ValTable
  | .setBitrate => cfg.bitrates
  | .setMode => cfg.modes
  | .setAutoRetry => cfg.autoRetries

/-- `VALTAB[cmd](v)` (R160); `none`: the table does not define the digit. -/
def valTab (cfg : Config) (c : ValueCmd) (v : Nat) : Option Nat := ((valTable cfg c).ofDigit[v]?).join

/-- `VALCHAR[cmd](x)` (R160); `none`: the table has no byte for the value. -/
def valChar (cfg : Config) (c : ValueCmd) (x : Nat) : Option Byte := (valTable cfg c).toChar.lookup x

/-! ## The open policies -/

/-- The reading of `EXCESS_POLICY`; `none` while it is unset (R109, log 7). -/
def excessReading (cfg : Config) : Option ExcessReading :=
  match cfg.excessPolicy with
  | .unset => none
  | .set r => some r
  | .free => some Config.freeExcess

/-- The reading of `ID_RANGE_POLICY`; `none` while it is unset (R105, log 8). -/
def idRangeReading (cfg : Config) : Option IdRangeReading :=
  match cfg.idRangePolicy with
  | .unset => none
  | .set r => some r
  | .free => some Config.freeIdRange

/-! ## Decode: ASCII to command -/

/-- Why decode has no answer: what the spec calls `refuse`. -/
inductive DecodeRefusal
  /-- A buffer of fewer than 2 bytes (R41, D4). Safe. -/
  | shortBuffer
  /-- Digits beyond the consumed ones while `EXCESS_POLICY` is unset (R109, D5). Safe. -/
  | excessUnset
  /-- An identifier above its width's maximum while `ID_RANGE_POLICY` is unset (R105, D6). Safe. -/
  | idRangeUnset
  deriving DecidableEq, Repr

/-- What decode answers: one instruction (a failing decode answers `invalid`, R114), or a refusal by name. -/
inductive Decoded
  | instr (i : Instr)
  | refuse (r : DecodeRefusal)
  deriving DecidableEq, Repr

/-- "strip one trailing CR" (R70, R103): the bytes after the command byte without it. -/
def stripCr (cfg : Config) (tail : List Byte) : List Byte :=
  if tail.getLast? = some cfg.terminator then tail.dropLast else tail

/-- The validation pass (R103): the lowest position from `pos` on whose byte is no hex digit. -/
def firstBad (pos : Nat) : List Byte → Option (Nat × Byte)
  | [] => none
  | b :: rest => if ishex b then firstBad (pos + 1) rest else some (pos, b)

/-- The number that digits spell, most significant first (R44, R105). -/
def hexNum (digits : List Byte) : Nat := digits.foldl (fun acc d => acc * 16 + hexval d) 0

/-- Payload bytes from digit pairs, high nibble first, `data[0]` first (R44, R107). -/
def bytePairs : List Byte → List Byte
  | hi :: lo :: rest => BitVec.ofNat 8 (hexval hi * 16 + hexval lo) :: bytePairs rest
  | _ => []

/-- The excess check, the last step of every successful path (R109): `pos` is the cursor after the last field, `m` the
stripped length. -/
def checkExcess (cfg : Config) (pos m : Nat) (i : Instr) : Decoded :=
  if pos < m then
    match excessReading cfg with
    | none => .refuse .excessUnset
    | some .invalid => .instr (.invalid (.excess pos m))
    | some .ignore => .instr i
  else .instr i

/-- The instruction of a frame command; a remote command carries the identifier only (R104). -/
def mkInstr (c : FrameCmd) (id : CanId) (len : Nat) (data : List Byte) : Instr :=
  match c with
  | .stdData => .stdData id len data
  | .extData => .extData id len data
  | .stdRemote => .stdRemote id
  | .extRemote => .extRemote id

/-- The frame path after the identifier (R104, R106, R107). `pos` is the cursor, `rest` the digits from there on. -/
def decodeAfterId (cfg : Config) (c : FrameCmd) (id : CanId) (pos m : Nat) (rest : List Byte) : Decoded :=
  if c.isRtr then checkExcess cfg pos m (mkInstr c id 0 [])
  else
    match rest with
    | [] => .instr (.invalid (.shortDlc pos))
    | d :: digits =>
      let len := hexval d
      if len > cfg.maxDlc then .instr (.invalid (.dlcRange len))
      else if digits.length < 2 * len then .instr (.invalid (.shortData len digits.length))
      else checkExcess cfg (pos + 1 + 2 * len) m (mkInstr c id len (bytePairs (digits.take (2 * len))))

/-- The frame path (R104, R105): identifier length, identifier range, then `decodeAfterId`. -/
def decodeFrameCmd (cfg : Config) (c : FrameCmd) (body : List Byte) : Decoded :=
  let k := c.idDigits cfg
  let m := 1 + body.length
  if body.length < k then .instr (.invalid (.shortId 1))
  else
    let id := hexNum (body.take k)
    let go := fun v => decodeAfterId cfg c (BitVec.ofNat 32 v) (1 + k) m (body.drop k)
    if id > c.idMax cfg then
      match idRangeReading cfg with
      | none => .refuse .idRangeUnset
      | some .invalid => .instr (.invalid (.idRange id))
      | some .keep => go id
      | some .mask => go (id &&& c.idMax cfg)
    else go id

/-- The instruction of a one-value command. -/
def mkValueInstr (c : ValueCmd) (v : Nat) : Instr :=
  match c with
  | .setBitrate => .setBitrate v
  | .setMode => .setMode v
  | .setAutoRetry => .setAutoRetry v

/-- The value path (R160). -/
def decodeValueCmd (cfg : Config) (c : ValueCmd) (body : List Byte) : Decoded :=
  match body with
  | [] => .instr (.invalid (.shortValue 1))
  | d :: _ =>
    match valTab cfg c (hexval d) with
    | none => .instr (.invalid (.badValue (hexval d)))
    | some x => checkExcess cfg 2 (1 + body.length) (mkValueInstr c x)

/-- The instruction of a parameterless command. -/
def mkPlainInstr (c : PlainCmd) : Instr :=
  match c with
  | .openChannel => .openChannel
  | .closeChannel => .closeChannel
  | .getVersion => .getVersion
  | .reportError => .reportError

/-- Decode along the command's path, the body validated (R103). -/
def decodeBody (cfg : Config) (c : Cmd) (body : List Byte) : Decoded :=
  match c with
  | .frame c => decodeFrameCmd cfg c body
  | .value c => decodeValueCmd cfg c body
  | .plain c => checkExcess cfg 1 (1 + body.length) (mkPlainInstr c)

/-- Decode of a command byte and a stripped body: command lookup, then the validation pass, then the path (R103, R249). -/
def decodeLine (cfg : Config) (c : Byte) (body : List Byte) : Decoded :=
  match cmdOfChar cfg c with
  | none => .instr (.invalid (.badCmd c))
  | some cmd =>
    match firstBad 1 body with
    | some (pos, b) => .instr (.invalid (.badChar pos b))
    | none => decodeBody cfg cmd body

/-- `decode(buf, n)` (R103), `n` the number of bytes. -/
def decode (cfg : Config) (buf : List Byte) : Decoded :=
  match buf with
  | c :: b :: rest => decodeLine cfg c (stripCr cfg (b :: rest))
  | _ => .refuse .shortBuffer

/-! ## Size and encode: Frame to ASCII -/

/-- `size(F)` (R116): 1 command byte, the identifier digits, for data 1 length digit and two per byte, 1 terminator. With the digits
of R5, `6 + 2*len`, `11 + 2*len`, 5 and 10. `none`: an Invalid Frame has no size, `refuse` (D10). -/
def size (cfg : Config) : Frame → Option Nat
  | .bus f =>
    match f.cmd with
    | .stdData => some (cfg.stdIdDigits + 3 + 2 * f.len)
    | .extData => some (cfg.extIdDigits + 3 + 2 * f.len)
    | .stdRemote => some (cfg.stdIdDigits + 2)
    | .extRemote => some (cfg.extIdDigits + 2)
  | .value _ _ => some 3
  | .plain _ => some 2
  | .invalid => none

/-- The `k` identifier digits, most significant first: `hexchar((id >> 4j) AND 0xF)` for `j` from `k-1` down to 0 (R119). -/
def idChars (id : CanId) : Nat → List Byte
  | 0 => []
  | j + 1 => hexchar ((id >>> (4 * j)) &&& 0xF).toNat :: idChars id j

/-- Each payload byte as two digits, high nibble first (R119). -/
def payloadChars : List Byte → List Byte
  | [] => []
  | b :: rest => hexchar (b >>> 4).toNat :: hexchar (b &&& 0xF).toNat :: payloadChars rest

/-- The bytes encode writes (R119); `none`: encode has no meaning on the Frame, `refuse` (R119, D10): Invalid, a Frame that breaks R13
(93_implementation_defined.md U9), or a value that `VALCHAR` has no byte for (log 20). -/
def encodeFrame (cfg : Config) : Frame → Option (List Byte)
  | .bus f =>
    if f.wf cfg then
      some (charOfFrameCmd f.cmd :: idChars f.id (f.cmd.idDigits cfg) ++
        (if f.cmd.isRtr then [] else hexchar f.len :: payloadChars (f.data.take f.len)) ++ [cfg.terminator])
    else none
  | .value c v => (valChar cfg c v).map fun b => [charOfValueCmd cfg c, b, cfg.terminator]
  | .plain c => some [charOfPlainCmd cfg c, cfg.terminator]
  | .invalid => none

/-- The line of an instruction: its Frame's canonical form (R87); `none` where it has none. -/
def encode (cfg : Config) (i : Instr) : Option (List Byte) := encodeFrame cfg i.frame

/-! ## The constraints on the parameters -/

/-- The seven command bytes are distinct from each other and from `t`, `T`, `r`, `R`, and none is the terminator (R78). -/
def CmdChars.wf (terminator : Byte) (t : CmdChars) : Bool :=
  let seven := [t.setBitrate, t.setMode, t.setAutoRetry, t.openChannel, t.closeChannel, t.getVersion, t.reportError]
  decide (seven ++ [0x74, 0x54, 0x72, 0x52, terminator]).Nodup

/-- "`VALCHAR[cmd](VALTAB[cmd](v))` is a hex digit whose value is `v`, for every `v` the table defines", and the table is
over the digits 0..15 (R160). -/
def ValTable.wf (t : ValTable) : Bool :=
  decide (t.ofDigit.length ≤ 16) &&
    (List.range 16).all fun v =>
      match (t.ofDigit[v]?).join with
      | none => true
      | some x =>
        match t.toChar.lookup x with
        | none => false
        | some b => ishex b && decide (hexval b = v)

/-- The largest value of the sizing function (R118): 27 with the protocol constants of R5. -/
def Config.maxSize (cfg : Config) : Nat := max cfg.stdIdDigits cfg.extIdDigits + 3 + 2 * cfg.maxDlc

/-- What the formats need of the protocol constants (log 2): the terminator is no hex digit (R70, R79), the length is one hex digit
(R81), an identifier's digits fit the register of 32 bits (R122), and its maximum fits its digits (R80). -/
def Config.wireWf (cfg : Config) : Bool :=
  !ishex cfg.terminator && decide (cfg.maxDlc ≤ 15) && decide (cfg.stdIdDigits ≤ 8) && decide (cfg.extIdDigits ≤ 8) &&
    decide (cfg.stdIdMax < 16 ^ cfg.stdIdDigits) && decide (cfg.extIdMax < 16 ^ cfg.extIdDigits)

/-- The constraints on the parameters: those of the formats, R78 on `CMDCHAR` (and on further spellings, none of which is the
terminator), R160 on `VALTAB` and `VALCHAR`, R43 on `USB_BUF_SIZE` and D28 on `MAX_LINE` (at least the largest size, 27 with the constants
of R5), R262 on `TXFIFO_DEPTH` (at least 1). -/
def Config.wf (cfg : Config) : Bool :=
  cfg.wireWf && cfg.cmdChars.wf cfg.terminator && cfg.cmdAliases.all (fun p => decide (p.1 ≠ cfg.terminator)) &&
    cfg.bitrates.wf && cfg.modes.wf && cfg.autoRetries.wf && decide (cfg.maxSize ≤ cfg.usbBufSize) &&
    decide (1 ≤ cfg.txFifoDepth) && decide (cfg.maxSize ≤ cfg.maxLine)

/-! ## The line of an opcode-table word -/

/-- The bytes of a table word: byte `k` is bits `8k+7 .. 8k`; the first is the command byte. -/
def wordBytes (nbits w : Nat) : List Byte := (List.range (nbits / 8)).map fun k => BitVec.ofNat 8 (w >>> (8 * k))

/-- A body filled up to `n` bytes with the digit `'0'`. -/
def padDigits (n : Nat) (body : List Byte) : List Byte := body ++ List.replicate (n - body.length) 0x30

/-- The body that a command byte demands (R85), the given digits first: operand digits of zero are the byte `'0'` (log 16). -/
def padBody (cfg : Config) (c : Byte) (body : List Byte) : List Byte :=
  match cmdOfChar cfg c with
  | some (.frame c) =>
    let k := c.idDigits cfg
    if c.isRtr then padDigits k body
    else
      let upToLen := padDigits (k + 1) body
      padDigits (k + 1 + 2 * hexval (upToLen.getD k 0x30)) upToLen
  | some (.value _) => padDigits 1 body
  | _ => body

/-- The line of a table word: its bytes, then operand digits of zero up to what the command demands, then the terminator; a word whose
last byte is the terminator already is a whole line (log 16). -/
def tableLine (cfg : Config) (nbits w : Nat) : List Byte :=
  match wordBytes nbits w with
  | [] => [0, cfg.terminator]
  | c :: body =>
    if body.getLast? = some cfg.terminator then c :: body
    else c :: padBody cfg c body ++ [cfg.terminator]

/-- What the decoder reads from a table word, under the configuration of reset. -/
def decodeTableWord (nbits w : Nat) : Option Instr :=
  match decode Config.default (tableLine Config.default nbits w) with
  | .instr i => some i
  | .refuse _ => none

end Sys2Proof
end

