-- ==== Sys2Proof/Machine/State.lean ====
section
/-! DEFINITION. The state of the block: everything spec/10_state.md gives the machine, the environment it observes (R26), and
the schedule that says which agent moves next (log 11). All of it is plain data. -/

namespace Sys2Proof.Machine

/-! ## The hardware header records (R30) -/

/-- `IdType`. -/
inductive IdType
  | standard
  | extended
  deriving DecidableEq, Repr

/-- `TxFrameType`, `RxFrameType`. -/
inductive FrameType
  | data
  | remote
  deriving DecidableEq, Repr

/-- `FDFormat`, "fixed `Classic`". -/
inductive FdFormat
  | classic
  deriving DecidableEq, Repr

/-- `BitRateSwitch`, "fixed `Off`". -/
inductive BitRateSwitch
  | off
  deriving DecidableEq, Repr

/-- `ErrorStateIndicator`, "fixed `Active`". -/
inductive ErrorState
  | active
  deriving DecidableEq, Repr

/-- The hardware transmit header. -/
structure TxHeader where
  identifier          : CanId
  idType              : IdType
  txFrameType         : FrameType
  dataLength          : Nat
  fdFormat            : FdFormat
  bitRateSwitch       : BitRateSwitch
  errorStateIndicator : ErrorState
  deriving DecidableEq, Repr

/-- The hardware receive header. -/
structure RxHeader where
  identifier          : CanId
  idType              : IdType
  rxFrameType         : FrameType
  dataLength          : Nat
  fdFormat            : FdFormat
  bitRateSwitch       : BitRateSwitch
  errorStateIndicator : ErrorState
  deriving DecidableEq, Repr

/-! ## Queue entries, log events, workers -/

/-- Which medium a received Frame arrived from (R14). -/
inductive Origin
  | bus
  | serial
  deriving DecidableEq, Repr

/-- An origin-tagged Frame (R14). -/
structure Tagged where
  frame  : Frame
  origin : Origin
  deriving DecidableEq, Repr

/-- The log events the spec names (R270). -/
inductive LogEvent
  | decodeError (e : DecodeError)
  /-- `HdrConvFail(cmd)`; `none` is the tag Invalid. -/
  | hdrConvFail (cmd : Option Cmd)
  | dropReport (n : Nat)
  /-- `UsbBusy(text)`: the line without its terminator. -/
  | usbBusy (text : List Byte)
  deriving DecidableEq, Repr

/-- The two workers (R8). -/
inductive Worker
  | txw
  | rxw
  deriving DecidableEq, Repr

/-- One flag per worker (R19, R20). -/
structure PerWorker where
  rxw : Bool
  txw : Bool
  deriving DecidableEq, Repr

/-- Where a worker stands in the flow-control machine (R21, R206). -/
inductive BusPhase
  | bs1
  | bs1b (d : Nat)
  | bs2
  | bs3 (h : TxHeader)
  | bs4 (h : TxHeader)
  | bs5 (h : TxHeader)
  | bs5b
  | bs5c (d : Nat)
  | bs6 (h : TxHeader)
  deriving DecidableEq, Repr

/-- Where a worker stands in USB forwarding (R21). The count `n` of the spec's `(bytes, n)` is the length of `bytes`. `left`: how many
retries are left after this one; 0 with the default `USB_RETRIES` of 1, where the phases are the spec's (log 38). -/
inductive UsbPhase
  | us1
  | us2 (bytes : List Byte)
  | us3 (bytes : List Byte) (left : Nat)
  | us4 (bytes : List Byte) (left : Nat)
  deriving DecidableEq, Repr

/-- `TXW.phase` (R21). -/
inductive TxwPhase
  | idle
  | got (F : Frame)
  | bus (F : Frame) (p : BusPhase)
  | usb (F : Frame) (p : UsbPhase)
  deriving DecidableEq, Repr

/-- `RXW.phase` (R21). -/
inductive RxwPhase
  | idle
  | got (x : Tagged)
  | bus (F : Frame) (p : BusPhase)
  | usb (F : Frame) (p : UsbPhase)
  | rst (F : Frame)
  deriving DecidableEq, Repr

/-! ## The environment -/

/-- An occupied slot of the hardware transmit FIFO: "the entry holds `h` and the payload" (R263). -/
structure HwEntry where
  header : TxHeader
  bytes  : List Byte
  deriving DecidableEq, Repr

/-- Environment state the block sees through the device operations (R26, R262 to R266). -/
structure Env where
  /-- The occupied slots of the hardware transmit FIFO, oldest first. -/
  txFifo : List HwEntry
  /-- What `USB.connected()` answers. -/
  connected : Bool
  /-- The lines `USB.queue` has accepted, oldest first. -/
  usbOut : List (List Byte)
  deriving DecidableEq, Repr

/-- The two hardware receive FIFOs (R253). -/
inductive RxFifo
  | fifo0
  | fifo1
  deriving DecidableEq, Repr

/-- The two vectors of `ERR_ISR` (R253). -/
inductive ErrVector
  | errorStatusChange
  | genericError
  deriving DecidableEq, Repr

/-- What the environment answers in a worker's step, asked or not: `USB.queue` takes the line (R266); the rate limiter passes
the warning (R28); what the transmit FIFO holds after a submit that met it full (R215, log 9). -/
structure Answers where
  usbAccepts : Bool
  warnPasses : Bool
  fullFifo   : List HwEntry
  deriving DecidableEq, Repr

/-- One move of one agent (R8, R57, R268), with the answers the environment gives in it. -/
inductive Event
  /-- `ENV` raises `SER_ISR` with a line (R268 clause 1). -/
  | serLine (buf : List Byte)
  /-- `ENV` raises `RX_ISR(fifo)`; header and payload are what the drain returns (R254, R268 clause 2). -/
  | rxFrame (fifo : RxFifo) (h : RxHeader) (bytes : List Byte)
  /-- `ENV` completes the oldest transmission and raises `TXC_ISR` (R268 clause 3). -/
  | txComplete
  /-- `ENV` raises `ERR_ISR`; what `HW.inflight()` answers, and the reading of `BERR_POST_TRIP` in this event where it is
  unset (R256, R268 clauses 4 and 6). -/
  | busError (vec : ErrVector) (inflight : Option Nat) (post : BerrReading)
  /-- `ENV` changes the transport's connection state (R268 clause 5). -/
  | setConnected (b : Bool)
  /-- A tick passes (R268 clause 7). -/
  | tick
  /-- `TXW` steps. -/
  | txwStep (a : Answers)
  /-- `RXW` steps. -/
  | rxwStep (a : Answers)
  /-- A task-context producer calls `submit(F)`: step S1 (R180). -/
  | submitCall (F : Frame)
  /-- The `k`-th of the producers between S1 and S2 takes its step S2 (R180). -/
  | submitEnqueue (k : Nat)
  /-- An interrupt-context producer calls `submitFromISR(F)` (R182). -/
  | submitIsr (F : Frame)
  /-- The application calls `construct` (R280). -/
  | construct
  /-- The process restarts (R283). -/
  | restart
  deriving DecidableEq, Repr

/-- What a call into the block from outside returned (R180, R182, R280, R281). -/
inductive CallResult
  | accepted
  | rejected
  | constructed
  | alreadyConstructed
  deriving DecidableEq, Repr

/-! ## How a step can stop -/

/-- Faults. There is none: the block's fatal path is a next state with `halted` set (R251; log 12), so no step answers a fault. -/
inductive Fault
  deriving DecidableEq, Repr

/-- The labels of `raise Fatal` (R240, R244, R250). -/
inductive FatalLabel
  | qFullOut
  | qFullIn
  | hdrPrecond
  deriving DecidableEq, Repr

/-- A move the environment's contract rules out (R262 to R268; log 23). -/
inductive EnvBreach
  /-- A completion while the hardware transmit FIFO is empty (R268 clause 3). -/
  | completeEmpty
  /-- `HW.inflight()` named a slot that is not occupied (R268 clause 6). -/
  | inflightFree
  /-- More entries than `TXFIFO_DEPTH` (R262). -/
  | fifoOverDepth
  deriving DecidableEq, Repr

/-- Refusals: the situations the spec calls `refuse`, and moves outside the environment's contract. -/
inductive Refusal
  /-- An instruction that has no meaning yet. Safe. -/
  | notModelled (mnemonic : String)
  /-- A line decode gives no meaning, raised by the serial callback (R41, R105, R109). Safe. -/
  | decode (r : DecodeRefusal)
  /-- A handler, worker or submit before construction has finished (R24, R284, U22). Safe. -/
  | notConstructed
  /-- A line above `MAX_LINE`, which `ENV` may not deliver (R268 clause 1). Safe. -/
  | lineTooLong
  /-- A submit to a full hardware FIFO while `SUBMIT_FULL_POLICY` is unset, raised by a worker in BS6 (R215). Safe. -/
  | submitFullUnset
  /-- Encode of a Frame outside its precondition, raised by a worker in US1 (R119, D10, U9). Safe. -/
  | encodePrecondition
  /-- "a negative `n` is `refuse`", raised by a worker in US1 (R220). Safe. -/
  | usbBufTooSmall
  /-- A move outside the environment's contract (R268). Safe. -/
  | envContract (b : EnvBreach)
  deriving DecidableEq, Repr

/-! ## The state -/

/-- The state of the machine. -/
structure State where
  /-- The configuration, "fixed for a run" (R29; log 1). -/
  cfg : Config
  /-- OutQ, oldest first (R15). -/
  outQ : List Frame
  /-- InQ, oldest first (R16). -/
  inQ : List Tagged
  /-- `dropCount` (R17). -/
  dropCount : Nat
  /-- `errCount` (R18). -/
  errCount : Nat
  /-- `waiting[RXW]`, `waiting[TXW]` (R19). -/
  waiting : PerWorker
  /-- `notify[RXW]`, `notify[TXW]` (R20). -/
  notify : PerWorker
  /-- `TXW.phase` (R21). -/
  txw : TxwPhase
  /-- `RXW.phase` (R21). -/
  rxw : RxwPhase
  /-- `Halted` (R23). -/
  halted : Bool
  /-- `Constructed` (R24). -/
  constructed : Bool
  /-- The serial receive callback is registered (R31, R280). -/
  serialCallback : Bool
  /-- The log stream, oldest first (R27). -/
  log : List LogEvent
  /-- The Frames of the task-context producers that stand between S1 and S2 of submit (R180; log 24). -/
  submitting : List Frame
  /-- What the last call into the block returned: the model's own output register (log 24). -/
  ret : Option CallResult
  /-- The environment (R26). -/
  env : Env
  /-- The moves to come: the model's own field (log 11). -/
  schedule : List Event
  deriving DecidableEq, Repr

/-- The state after construction (R31); the environment as 95_test_vectors.md starts its programs (log 15); nothing scheduled. -/
def State.reset : State where
  cfg := Config.default
  outQ := []
  inQ := []
  dropCount := 0
  errCount := 0
  waiting := { rxw := false, txw := false }
  notify := { rxw := false, txw := false }
  txw := .idle
  rxw := .idle
  halted := false
  constructed := true
  serialCallback := true
  log := []
  submitting := []
  ret := none
  env := { txFifo := [], connected := true, usbOut := [] }
  schedule := []

/-- What one step answers. -/
abbrev Result := Host.Outcome State Fault Refusal

end Sys2Proof.Machine
end

