-- ==== Sys2Proof/Machine/Flags.lean ====
section
/-! DEFINITION. The flags of the block (spec/10_state.md R25): the Frame flags and the four-way mapping, the per-worker flags,
and the tests that decide a branch. The block has no arithmetic condition codes. -/

namespace Sys2Proof.Machine

/-- `F.ext` of a header: its identifier type is extended (R108). -/
def extOf : IdType → Bool
  | .standard => false
  | .extended => true

/-- `F.rtr` of a header: its frame type is remote (R108). -/
def rtrOf : FrameType → Bool
  | .data => false
  | .remote => true

/-- The identifier type of `F.ext` (R120). -/
def idTypeOf : Bool → IdType
  | true => .extended
  | false => .standard

/-- The frame type of `F.rtr` (R120). -/
def frameTypeOf : Bool → FrameType
  | true => .remote
  | false => .data

/-- The "fixed 4-way mapping" from the two flags to the tag (R88, R108). -/
def tagOfFlags (ext rtr : Bool) : FrameCmd :=
  match ext, rtr with
  | false, false => .stdData
  | false, true => .stdRemote
  | true, false => .extData
  | true, true => .extRemote

/-- `F.cmd` (R11); `none` is the tag Invalid. -/
def cmdOf : Frame → Option Cmd
  | .bus f => some (.frame f.cmd)
  | .value c _ => some (.value c)
  | .plain c => some (.plain c)
  | .invalid => none

/-- `isFrameCmd(F.cmd)`, which is `transmittable(F)` (R11, R200). -/
def transmittable : Frame → Bool
  | .bus _ => true
  | .value _ _ => false
  | .plain _ => false
  | .invalid => false

/-- A worker's flag. -/
def PerWorker.get (p : PerWorker) : Worker → Bool
  | .txw => p.txw
  | .rxw => p.rxw

/-- A worker's flag written; the other worker's stays. -/
def PerWorker.set (p : PerWorker) (w : Worker) (b : Bool) : PerWorker :=
  match w with
  | .txw => { p with txw := b }
  | .rxw => { p with rxw := b }

/-- The breaker is open: a strict comparison (R207, C8). -/
def breakerOpen (s : State) : Bool := decide (s.cfg.dropThreshold < s.dropCount)

/-- `trips(e)` (R256): true at the threshold under every reading, past it under `ge` and `geReset` only (log 10). -/
def trips (threshold e : Nat) : BerrReading → Bool
  | .eq => decide (e = threshold)
  | .ge => decide (threshold ≤ e)
  | .geReset => decide (threshold ≤ e)

/-- The reading of `BERR_POST_TRIP` in one event: the one that is set, else the event's (R256). -/
def berrReading (cfg : Config) (eventChoice : BerrReading) : BerrReading :=
  match cfg.berrPostTrip with
  | some r => r
  | none => eventChoice

/-- A free slot of the hardware transmit FIFO: `HW.free()`, `TXFIFO_DEPTH - occupancy` (R262). -/
def hwFree (s : State) : Nat := s.cfg.txFifoDepth - s.env.txFifo.length

/-- A slot selector names an occupied slot, by its place in the FIFO, oldest first (R264, R268 clause 6; log 22). -/
def slotOccupied (s : State) (k : Nat) : Bool := decide (k < s.env.txFifo.length)

end Sys2Proof.Machine
end

