-- ==== Sys2Proof/Machine/Operands.lean ====
section
/-! DEFINITION. The codec between Frames, hardware headers and output buffers: wrap, the two constructors, header conversion,
encode into a buffer (spec/40_codec_operations.md R108 to R113, R119 to R121). These are pure: "No I/O, no concurrency". -/

namespace Sys2Proof.Machine

/-! ## Wrap: hardware header to Frame -/

/-- The four mapped fields and the payload buffer to a Frame (R108, R110); `none` is `raise Fatal(F_HDR_PRECOND)`: the declared
length is not the buffer's, or above `MAX_DLC`. The length operand `blen` is the buffer's length (log 28). -/
def wrapFields (cfg : Config) (id : CanId) (ty : IdType) (ft : FrameType) (dataLength : Nat) (bytes : List Byte) : Option Frame :=
  if dataLength ≠ bytes.length ∨ dataLength > cfg.maxDlc then none
  else
    some (.bus
      { cmd := tagOfFlags (extOf ty) (rtrOf ft), id := id, ext := extOf ty, rtr := rtrOf ft, len := dataLength, data := bytes })

/-- `wrap` of a receive header (R108, R110, R111). -/
def wrapRx (cfg : Config) (h : RxHeader) (bytes : List Byte) : Option Frame :=
  wrapFields cfg h.identifier h.idType h.rxFrameType h.dataLength bytes

/-- `wrap` of a transmit header (R111: "The two forms behave alike"). -/
def wrapTx (cfg : Config) (h : TxHeader) (bytes : List Byte) : Option Frame :=
  wrapFields cfg h.identifier h.idType h.txFrameType h.dataLength bytes

/-! ## The convenience constructors -/

/-- `mkRemote(id, ext)` (R112); `none`: outside the identifier range, `refuse` (D42). -/
def mkRemote (cfg : Config) (id : CanId) (ext : Bool) : Option Frame :=
  let c := tagOfFlags ext true
  if id.toNat ≤ c.idMax cfg then some (.bus (mkBusFrame c id 0 [])) else none

/-- `mkData(id, ext, bytes, len)` (R113); `none`: a length above `MAX_DLC`, a buffer shorter than it, or an identifier outside the range,
`refuse` (D42). -/
def mkData (cfg : Config) (id : CanId) (ext : Bool) (bytes : List Byte) (len : Nat) : Option Frame :=
  let c := tagOfFlags ext false
  if id.toNat ≤ c.idMax cfg ∧ len ≤ cfg.maxDlc ∧ len ≤ bytes.length then some (.bus (mkBusFrame c id len (bytes.take len)))
  else none

/-! ## Conversion to hardware headers -/

/-- `toTxHeader(F)` (R120); `none` is the header sentinel, absent for every Frame that is no frame command. -/
def toTxHeader : Frame → Option TxHeader
  | .bus f =>
    some
      { identifier := f.id, idType := idTypeOf f.ext, txFrameType := frameTypeOf f.rtr, dataLength := f.len,
        fdFormat := .classic, bitRateSwitch := .off, errorStateIndicator := .active }
  | .value _ _ => none
  | .plain _ => none
  | .invalid => none

/-- `toRxHeader(F)` (R121). -/
def toRxHeader : Frame → Option RxHeader
  | .bus f =>
    some
      { identifier := f.id, idType := idTypeOf f.ext, rxFrameType := frameTypeOf f.rtr, dataLength := f.len,
        fdFormat := .classic, bitRateSwitch := .off, errorStateIndicator := .active }
  | .value _ _ => none
  | .plain _ => none
  | .invalid => none

/-- The payload a submit hands over, `F.data[0 .. F.len-1]` (R215). DESIGN CHOICE (log 39): of a Frame that breaks R13 by holding fewer bytes
than its length says, the bytes there are. -/
def framePayload : Frame → List Byte
  | .bus f => f.data.take f.len
  | .value _ _ => []
  | .plain _ => []
  | .invalid => []

/-! ## Encode into a buffer -/

/-- What `encode(F, out, cap)` answers (R119): the bytes written, whose number it returns; the negative sentinel, of which no
number and no buffer content is known (D9; log 33); or no meaning. -/
inductive EncodeResult
  | written (bytes : List Byte)
  | bufTooSmall
  | refused
  deriving DecidableEq, Repr

/-- `encode(F, out, cap)` (R119): the capacity test against `size(F)`, then the emission. -/
def encodeCap (cfg : Config) (F : Frame) (cap : Nat) : EncodeResult :=
  match size cfg F, encodeFrame cfg F with
  | some need, some bytes => if cap < need then .bufTooSmall else .written bytes
  | _, _ => .refused

/-- The buffer `OUT` after an encode that returned a count: the bytes written, then what stood there (R42). -/
def outAfter (out bytes : List Byte) : List Byte := bytes ++ out.drop bytes.length

end Sys2Proof.Machine
end

