-- ==== Sys2Proof/Machine/Ops.lean ====
section
/-! DEFINITION. The named operations over State that every rule is written with: the writes of single fields, the queue and
notification primitives (spec/20_memory.md R52 to R55), the device operations (spec/60_exceptions.md R262 to R266), the fatal
path (R251) and the restart and construction that leave it (spec/70_reset_and_hazards.md R280, R283). -/

namespace Sys2Proof.Machine

namespace State

/-! ## Writes of single fields -/

/-- Write OutQ. -/
def withOutQ (s : State) (q : List Frame) : State := { s with outQ := q }

/-- Write InQ. -/
def withInQ (s : State) (q : List Tagged) : State := { s with inQ := q }

/-- Write `dropCount`. -/
def withDrop (s : State) (n : Nat) : State := { s with dropCount := n }

/-- Write `errCount`. -/
def withErr (s : State) (n : Nat) : State := { s with errCount := n }

/-- Write `waiting[w]` (R19). -/
def withWaiting (s : State) (w : Worker) (b : Bool) : State := { s with waiting := s.waiting.set w b }

/-- Write `notify[w]` (R20). -/
def withNotify (s : State) (w : Worker) (b : Bool) : State := { s with notify := s.notify.set w b }

/-- Write `TXW.phase`. -/
def withTxw (s : State) (p : TxwPhase) : State := { s with txw := p }

/-- Write `RXW.phase`. -/
def withRxw (s : State) (p : RxwPhase) : State := { s with rxw := p }

/-- Write `Halted`. -/
def withHalted (s : State) (b : Bool) : State := { s with halted := b }

/-- `log(event)`: append to the log stream (R27). -/
def logged (s : State) (e : LogEvent) : State := { s with log := s.log ++ [e] }

/-- Write the producers between S1 and S2. -/
def withSubmitting (s : State) (l : List Frame) : State := { s with submitting := l }

/-- Write what the last call returned. -/
def withRet (s : State) (r : CallResult) : State := { s with ret := some r }

/-- Write the hardware transmit FIFO. -/
def withTxFifo (s : State) (l : List HwEntry) : State := { s with env := { s.env with txFifo := l } }

/-- Write the connection state. -/
def withConnected (s : State) (b : Bool) : State := { s with env := { s.env with connected := b } }

/-- Write the lines the transport accepted. -/
def withUsbOut (s : State) (l : List (List Byte)) : State := { s with env := { s.env with usbOut := l } }

/-- Write the moves to come. -/
def withSchedule (s : State) (l : List Event) : State := { s with schedule := l }

end State

/-! ## The fatal path, and leaving it -/

/-- `raise Fatal(label)` (R251): `Halted` is set and "All other state keeps its value"; the label is recorded nowhere (R244). -/
def raiseFatal (_label : FatalLabel) (s : State) : State := s.withHalted true

/-- Restart (R283): "a restart loses every queue entry, both counters, every flag and the log"; the block is not constructed.
`Halted` is cleared by the construction that follows (R23; log 14). The environment is not the block's and stays. -/
def restart (s : State) : State where
  cfg := s.cfg
  outQ := []
  inQ := []
  dropCount := 0
  errCount := 0
  waiting := { rxw := false, txw := false }
  notify := { rxw := false, txw := false }
  txw := .idle
  rxw := .idle
  halted := s.halted
  constructed := false
  serialCallback := false
  log := []
  submitting := []
  ret := none
  env := s.env
  schedule := s.schedule

/-- `construct` with `Constructed = false` (R280, R31). -/
def constructFresh (s : State) : State where
  cfg := s.cfg
  outQ := []
  inQ := []
  dropCount := 0
  errCount := 0
  waiting := { rxw := false, txw := false }
  notify := { rxw := false, txw := false }
  txw := .idle
  rxw := .idle
  halted := false
  constructed := true
  serialCallback := true
  log := []
  submitting := []
  ret := some .constructed
  env := s.env
  schedule := s.schedule

/-- `construct` (R280, R281): a second construction changes no state and returns an error; a halted block has no step (R251). -/
def construct (s : State) : State :=
  if s.constructed then if s.halted then s else s.withRet .alreadyConstructed else constructFresh s

/-- A step of an agent of the block: no meaning before construction (R24, R284), no step once halted (R251). -/
def guarded (s : State) (run : State → Result) : Result :=
  if s.constructed then if s.halted then .next s else run s else .refused .notConstructed

/-! ## Queue operations -/

/-- `deliver(F, origin)` (R184): Invalid is rejected first; a full InQ is fatal; else the tail of InQ. -/
def deliver (F : Frame) (origin : Origin) (s : State) : State :=
  if F = .invalid then s
  else if s.inQ.length < s.cfg.inQCap then s.withInQ (s.inQ ++ [{ frame := F, origin := origin }])
  else raiseFatal .qFullIn s

/-- `submit(F)`, step S1 (R180): Invalid is rejected; any other Frame's producer goes on to S2. -/
def submitCall (F : Frame) (s : State) : State :=
  if F = .invalid then s.withRet .rejected else s.withSubmitting (s.submitting ++ [F])

/-- `submit(F)`, step S2 of the `k`-th producer (R180): enabled while OutQ has room; a blocked or absent producer has no step. -/
def submitEnqueue (k : Nat) (s : State) : State :=
  match s.submitting[k]? with
  | none => s
  | some F =>
    if s.outQ.length < s.cfg.outQCap then
      ((s.withOutQ (s.outQ ++ [F])).withSubmitting (s.submitting.eraseIdx k)).withRet .accepted
    else s

/-- `submitFromISR(F)` (R182): Invalid is rejected first; a full OutQ is fatal; else the tail of OutQ. -/
def submitFromIsr (F : Frame) (s : State) : State :=
  if F = .invalid then s.withRet .rejected
  else if s.outQ.length < s.cfg.outQCap then (s.withOutQ (s.outQ ++ [F])).withRet .accepted
  else raiseFatal .qFullOut s

/-! ## Device operations -/

/-- `HW.submit(h, bytes)` with a free slot (R263). -/
def hwSubmit (h : TxHeader) (bytes : List Byte) (s : State) : State :=
  s.withTxFifo (s.env.txFifo ++ [{ header := h, bytes := bytes }])

/-- `HW.abort(sel)` (R265, D24): the selected entry, or every entry, leaves the FIFO. -/
def hwAbort (sel : Option Nat) (s : State) : State :=
  match sel with
  | some k => s.withTxFifo (s.env.txFifo.eraseIdx k)
  | none => s.withTxFifo []

/-- `USB.queue(bytes, n)` that answered `Accepted` (R266). -/
def usbQueue (bytes : List Byte) (s : State) : State := s.withUsbOut (s.env.usbOut ++ [bytes])

/-! ## A worker's phase, for the machine both workers share -/

/-- `w.phase <- Bus(F, p)`. -/
def setBus (w : Worker) (F : Frame) (p : BusPhase) (s : State) : State :=
  match w with
  | .txw => s.withTxw (.bus F p)
  | .rxw => s.withRxw (.bus F p)

/-- `w.phase <- Usb(F, p)`. -/
def setUsb (w : Worker) (F : Frame) (p : UsbPhase) (s : State) : State :=
  match w with
  | .txw => s.withTxw (.usb F p)
  | .rxw => s.withRxw (.usb F p)

/-- Exit of the flow-control machine, whatever the outcome (R216). -/
def exitBus (w : Worker) (F : Frame) (s : State) : State :=
  match w with
  | .txw => s.withTxw (.usb F .us1)
  | .rxw => s.withRxw .idle

/-- Exit of USB forwarding, whatever the outcome (R224). -/
def exitUsb (w : Worker) (F : Frame) (s : State) : State :=
  match w with
  | .txw => s.withTxw .idle
  | .rxw => s.withRxw (.rst F)

/-- The rest of the serial callback once decode has answered a Frame (R186). -/
def serialDeliver (F : Frame) (s : State) : Result := guarded s fun s => .next (deliver F .serial s)

end Sys2Proof.Machine
end

