-- ==== Sys2Proof/Machine/Interrupts.lean ====
section
/-! DEFINITION. The bus-side interrupt handlers (spec/60_exceptions.md R254 to R256). A handler's body is one atomic step (R57). -/

namespace Sys2Proof.Machine

/-- `RX_ISR(fifo)` on the header and payload drained (R254): wrap, then deliver with origin Bus; the two FIFOs behave alike. -/
def rxIsr (_fifo : RxFifo) (h : RxHeader) (bytes : List Byte) (s : State) : State :=
  match wrapRx s.cfg h bytes with
  | none => raiseFatal .hdrPrecond s
  | some F => deliver F .bus s

/-- The wake of `TXC_ISR` (R255): exactly one waiting worker, the receive worker first; nobody where neither waits. -/
def wakeOne (s : State) : State :=
  if s.waiting.rxw then (s.withWaiting .rxw false).withNotify .rxw true
  else if s.waiting.txw then (s.withWaiting .txw false).withNotify .txw true
  else s

/-- `TXC_ISR` (R255): both counters to zero, then the wake. -/
def txcIsr (s : State) : State := wakeOne ((s.withDrop 0).withErr 0)

/-- What `ERR_ISR` does when it trips (R256): a drop is counted and the in-flight slot, or every slot, is aborted; under `geReset` counting
restarts. -/
def errTrip (inflight : Option Nat) (post : BerrReading) (s : State) : State :=
  if post = .geReset then (hwAbort inflight (s.withDrop (s.dropCount + 1))).withErr 0
  else hwAbort inflight (s.withDrop (s.dropCount + 1))

/-- The body of `ERR_ISR` under a reading of `BERR_POST_TRIP` (R256). `inflight` is what `HW.inflight()` answers if it is asked; naming a slot
that is not occupied is outside the environment's contract (R268 clause 6). -/
def errIsr (inflight : Option Nat) (post : BerrReading) (s : State) : Result :=
  if trips s.cfg.errThreshold (s.errCount + 1) post then
    if inflight.all (slotOccupied s) then .next (errTrip inflight post (s.withErr (s.errCount + 1)))
    else .refused (.envContract .inflightFree)
  else .next (s.withErr (s.errCount + 1))

/-- A transmission completes (R268 clause 3): the oldest entry leaves the hardware FIFO, then `TXC_ISR` runs. -/
def completeTx (s : State) : Result :=
  match s.env.txFifo with
  | [] => .refused (.envContract .completeEmpty)
  | _ :: rest => guarded (s.withTxFifo rest) fun s => .next (txcIsr s)

end Sys2Proof.Machine
end

