-- ==== Sys2Proof/Machine/FlowControl.lean ====
section
/-! DEFINITION. The bus-transmission flow-control machine, shared by both workers (spec/44_flow_control.md R206 to R217). Each
branch is one atomic step of worker `w`, named by the phase it leaves. -/

namespace Sys2Proof.Machine

/-- BS1, the breaker test (R207). -/
def stepBs1 (w : Worker) (F : Frame) (s : State) : State :=
  if breakerOpen s then setBus w F (.bs1b s.dropCount) s else setBus w F .bs2 s

/-- BS1b, the breaker drop (R208): with atomic counters the current value is incremented, else the value read at BS1. -/
def stepBs1b (w : Worker) (F : Frame) (d : Nat) (s : State) : State :=
  exitBus w F (s.withDrop ((if s.cfg.atomicCounters then s.dropCount else d) + 1))

/-- BS2, header conversion (R209). -/
def stepBs2 (w : Worker) (F : Frame) (s : State) : State :=
  match toTxHeader F with
  | none => exitBus w F (s.logged (.hdrConvFail (cmdOf F)))
  | some h => setBus w F (.bs3 h) s

/-- BS3, the room query (R210). -/
def stepBs3 (w : Worker) (F : Frame) (h : TxHeader) (s : State) : State :=
  if hwFree s = 0 then setBus w F (.bs4 h) s else setBus w F (.bs6 h) s

/-- BS4, mark waiting (R211). -/
def stepBs4 (w : Worker) (F : Frame) (h : TxHeader) (s : State) : State := setBus w F (.bs5 h) (s.withWaiting w true)

/-- BS5, notified (R212) where the slot is set, timed out (R213) where it is empty. -/
def stepBs5 (w : Worker) (F : Frame) (h : TxHeader) (s : State) : State :=
  if s.notify.get w then setBus w F (.bs6 h) (s.withNotify w false) else setBus w F .bs5b s

/-- BS5b, the counter read of the timeout (R214); with atomic counters the whole increment and the exit. -/
def stepBs5b (w : Worker) (F : Frame) (s : State) : State :=
  if s.cfg.atomicCounters then exitBus w F (s.withDrop (s.dropCount + 1)) else setBus w F (.bs5c s.dropCount) s

/-- BS5c, the counter write of the timeout (R214). -/
def stepBs5c (w : Worker) (F : Frame) (d : Nat) (s : State) : State := exitBus w F (s.withDrop (d + 1))

/-- BS6, the hardware submit (R215). With no free slot `SUBMIT_FULL_POLICY` decides (R263; log 9). -/
def stepBs6 (w : Worker) (F : Frame) (h : TxHeader) (a : Answers) (s : State) : Result :=
  if hwFree s = 0 then
    match s.cfg.submitFullPolicy with
    | .unset => .refused .submitFullUnset
    | .environment =>
      if a.fullFifo.length ≤ s.cfg.txFifoDepth then .next (exitBus w F (s.withTxFifo a.fullFifo))
      else .refused (.envContract .fifoOverDepth)
  else .next (exitBus w F (hwSubmit h (framePayload F) s))

/-- One step of worker `w` in `Bus(F, p)`. -/
def busStep (w : Worker) (F : Frame) (p : BusPhase) (a : Answers) (s : State) : Result :=
  match p with
  | .bs1 => .next (stepBs1 w F s)
  | .bs1b d => .next (stepBs1b w F d s)
  | .bs2 => .next (stepBs2 w F s)
  | .bs3 h => .next (stepBs3 w F h s)
  | .bs4 h => .next (stepBs4 w F h s)
  | .bs5 h => .next (stepBs5 w F h s)
  | .bs5b => .next (stepBs5b w F s)
  | .bs5c d => .next (stepBs5c w F d s)
  | .bs6 h => stepBs6 w F h a s

end Sys2Proof.Machine
end

