-- ==== Sys2Proof/Machine/Forwarding.lean ====
section
/-! DEFINITION. USB forwarding (spec/44_flow_control.md R220 to R224). -/

namespace Sys2Proof.Machine

/-- US1, connection test and encode (R220). -/
def stepUs1 (w : Worker) (F : Frame) (s : State) : Result :=
  if s.env.connected then
    match encodeCap s.cfg F s.cfg.usbBufSize with
    | .written bytes => .next (setUsb w F (.us2 bytes) s)
    | .bufTooSmall => .refused .usbBufTooSmall
    | .refused => .refused .encodePrecondition
  else .next (exitUsb w F s)

/-- One attempt to hand the line over, with `left` retries left after it (R221, R223): a refused one leads to the delay while a retry is
left; the last drops the Frame, and the warning carries the line without its terminator. -/
def usbAttempt (w : Worker) (F : Frame) (bytes : List Byte) (left : Nat) (a : Answers) (s : State) : State :=
  if a.usbAccepts then exitUsb w F (usbQueue bytes s)
  else
    match left with
    | r + 1 => setUsb w F (.us3 bytes r) s
    | 0 => if a.warnPasses then exitUsb w F (s.logged (.usbBusy bytes.dropLast)) else exitUsb w F s

/-- US2, the first attempt (R221): `USB_RETRIES` retries are left after it. -/
def stepUs2 (w : Worker) (F : Frame) (bytes : List Byte) (a : Answers) (s : State) : State :=
  usbAttempt w F bytes s.cfg.usbRetries a s

/-- US3, the delay (R222): "changes nothing but the phase". -/
def stepUs3 (w : Worker) (F : Frame) (bytes : List Byte) (left : Nat) (s : State) : State := setUsb w F (.us4 bytes left) s

/-- US4, a retry (R223): with `USB_RETRIES` of 1 "the single retry", after which nothing is left. -/
def stepUs4 (w : Worker) (F : Frame) (bytes : List Byte) (left : Nat) (a : Answers) (s : State) : State :=
  usbAttempt w F bytes left a s

/-- One step of worker `w` in `Usb(F, p)`. -/
def usbStep (w : Worker) (F : Frame) (p : UsbPhase) (a : Answers) (s : State) : Result :=
  match p with
  | .us1 => stepUs1 w F s
  | .us2 bytes => .next (stepUs2 w F bytes a s)
  | .us3 bytes left => .next (stepUs3 w F bytes left s)
  | .us4 bytes left => .next (stepUs4 w F bytes left a s)

end Sys2Proof.Machine
end

