-- ==== Sys2Proof/Machine/Workers.lean ====
section
/-! DEFINITION. The two worker loops (spec/44_flow_control.md R201 to R205). -/

namespace Sys2Proof.Machine

/-- TXW, `Idle` (R201): dequeue OutQ; blocked while it is empty. -/
def txwIdle (s : State) : State :=
  match s.outQ with
  | [] => s
  | F :: rest => (s.withOutQ rest).withTxw (.got F)

/-- TXW, `Got(F)` (R202). -/
def txwGot (F : Frame) (s : State) : State :=
  if transmittable F then s.withTxw (.bus F .bs1) else s.withTxw .idle

/-- One step of the transmit worker. -/
def txwStep (a : Answers) (s : State) : Result :=
  match s.txw with
  | .idle => .next (txwIdle s)
  | .got F => .next (txwGot F s)
  | .bus F p => busStep .txw F p a s
  | .usb F p => usbStep .txw F p a s

/-- RXW, `Idle` (R203): dequeue InQ; blocked while it is empty. -/
def rxwIdle (s : State) : State :=
  match s.inQ with
  | [] => s
  | x :: rest => (s.withInQ rest).withRxw (.got x)

/-- RXW, `Got((F, origin))`, routing to the opposite medium (R204). -/
def rxwGot (x : Tagged) (s : State) : State :=
  if transmittable x.frame then
    match x.origin with
    | .serial => s.withRxw (.bus x.frame .bs1)
    | .bus => s.withRxw (.usb x.frame .us1)
  else s.withRxw .idle

/-- RXW, `Rst(F)` (R205): the drop report, the counter to zero. -/
def rxwRst (s : State) : State := ((s.logged (.dropReport s.dropCount)).withDrop 0).withRxw .idle

/-- One step of the receive worker. -/
def rxwStep (a : Answers) (s : State) : Result :=
  match s.rxw with
  | .idle => .next (rxwIdle s)
  | .got x => .next (rxwGot x s)
  | .bus F p => busStep .rxw F p a s
  | .usb F p => usbStep .rxw F p a s
  | .rst _ => .next (rxwRst s)

end Sys2Proof.Machine
end

