-- ==== Sys2Proof/Machine/Agents.lean ====
section
/-! DEFINITION. The moves of the schedule other than a serial line, and the fetch of a serial line
(spec/60_exceptions.md R268, spec/43_gateway_queues.md R186). -/

namespace Sys2Proof.Machine

/-- What the next move of the schedule is. -/
inductive Fetched
  /-- Nothing is scheduled. -/
  | idle
  /-- A serial line that decodes to an instruction. -/
  | instr (i : Instr) (s : State)
  /-- A serial line with no meaning. -/
  | refuse (r : Refusal)
  /-- A serial line while the block is halted: no handler runs (R251). -/
  | lost (s : State)
  /-- Another move. -/
  | move (e : Event) (s : State)
  deriving DecidableEq, Repr

/-- `SER_ISR` up to decode (R186): the callback must be registered (R284), a halted block runs no handler, the line is within
`MAX_LINE` (R268 clause 1), and decode reads it. -/
def fetchLine (buf : List Byte) (s : State) : Fetched :=
  if s.constructed && s.serialCallback then
    if s.halted then .lost s
    else if s.cfg.maxLine < buf.length then .refuse .lineTooLong
    else
      match decode s.cfg buf with
      | .instr i => .instr i s
      | .refuse r => .refuse (.decode r)
  else .refuse .notConstructed

/-- Take the next move from the schedule. -/
def fetch (s : State) : Fetched :=
  match s.schedule with
  | [] => .idle
  | .serLine buf :: rest => fetchLine buf (s.withSchedule rest)
  | e :: rest => .move e (s.withSchedule rest)

/-- One move other than a serial line. -/
def runEvent (e : Event) (s : State) : Result :=
  match e with
  | .serLine _ => .next s
  | .rxFrame fifo h bytes => guarded s fun s => .next (rxIsr fifo h bytes s)
  | .txComplete => completeTx s
  | .busError _ inflight post => guarded s fun s => errIsr inflight (berrReading s.cfg post) s
  | .setConnected b => .next (s.withConnected b)
  | .tick => .next s
  | .txwStep a => guarded s (txwStep a)
  | .rxwStep a => guarded s (rxwStep a)
  | .submitCall F => guarded s fun s => .next (submitCall F s)
  | .submitEnqueue k => guarded s fun s => .next (submitEnqueue k s)
  | .submitIsr F => guarded s fun s => .next (submitFromIsr F s)
  | .construct => .next (construct s)
  | .restart => .next (restart s)

end Sys2Proof.Machine
end

