-- ==== Sys2Proof/Machine/ControlCommands.lean ====
section
/-! DEFINITION. The seven control commands and Invalid (spec/42_control_commands.md). "In the gateway a control command decoded
from serial is enqueued (it is not Invalid), dequeued by the receive worker, found not to be a transmittable kind, and
discarded" (R161): its own step is the delivery. -/

namespace Sys2Proof.Machine

/-- `S`, SetBitrate (R162). -/
def execSetBitrate (v : Nat) (s : State) : Result := serialDeliver (.value .setBitrate v) s

/-- `M`, SetMode (R163). -/
def execSetMode (v : Nat) (s : State) : Result := serialDeliver (.value .setMode v) s

/-- `A`, SetAutoRetry (R164). -/
def execSetAutoRetry (v : Nat) (s : State) : Result := serialDeliver (.value .setAutoRetry v) s

/-- `O`, OpenChannel (R165). -/
def execOpenChannel (s : State) : Result := serialDeliver (.plain .openChannel) s

/-- `C`, CloseChannel (R166). -/
def execCloseChannel (s : State) : Result := serialDeliver (.plain .closeChannel) s

/-- `V`, GetVersion (R167): no reply is produced. -/
def execGetVersion (s : State) : Result := serialDeliver (.plain .getVersion) s

/-- `E`, ReportError (R168): no report is produced. -/
def execReportError (s : State) : Result := serialDeliver (.plain .reportError) s

/-- `(invalid)`, a line whose decode failed (R114, R169): the cause is logged, and deliver rejects the Frame. -/
def execInvalid (e : DecodeError) (s : State) : Result :=
  guarded s fun s => .next (deliver .invalid .serial (s.logged (.decodeError e)))

end Sys2Proof.Machine
end

