-- ==== Sys2Proof/Machine/FrameCommands.lean ====
section
/-! DEFINITION. The four frame commands (spec/41_frame_commands.md). A decoded line's effect is the rest of its atomic step, the
serial callback: its Frame is delivered to InQ with origin Serial (spec/43_gateway_queues.md R186; log 17); sending it to the bus
is the receive worker's work (spec/44_flow_control.md). -/

namespace Sys2Proof.Machine

/-- `t`, transmit standard data frame (R140): `ext <- 0`, `rtr <- 0`. -/
def execStdData (id : CanId) (len : Nat) (data : List Byte) (s : State) : Result :=
  serialDeliver (.bus (mkBusFrame .stdData id len data)) s

/-- `T`, transmit extended data frame (R141): `ext <- 1`, `rtr <- 0`. -/
def execExtData (id : CanId) (len : Nat) (data : List Byte) (s : State) : Result :=
  serialDeliver (.bus (mkBusFrame .extData id len data)) s

/-- `r`, transmit standard remote frame (R142): `ext <- 0`, `rtr <- 1`, `len <- 0`. -/
def execStdRemote (id : CanId) (s : State) : Result := serialDeliver (.bus (mkBusFrame .stdRemote id 0 [])) s

/-- `R`, transmit extended remote frame (R143): `ext <- 1`, `rtr <- 1`, `len <- 0`. -/
def execExtRemote (id : CanId) (s : State) : Result := serialDeliver (.bus (mkBusFrame .extRemote id 0 [])) s

end Sys2Proof.Machine
end

