-- ==== Sys2Proof/Machine/Dispatch.lean ====
section
/-! DEFINITION. One arm per constructor of Instr. -/

namespace Sys2Proof.Machine

def exec (i : Instr) (s : State) : Host.Outcome State Fault Refusal :=
  match i with
  | .stdData id len data => Sys2Proof.Machine.execStdData id len data s
  | .extData id len data => Sys2Proof.Machine.execExtData id len data s
  | .stdRemote id => Sys2Proof.Machine.execStdRemote id s
  | .extRemote id => Sys2Proof.Machine.execExtRemote id s
  | .setBitrate v => Sys2Proof.Machine.execSetBitrate v s
  | .setMode v => Sys2Proof.Machine.execSetMode v s
  | .setAutoRetry v => Sys2Proof.Machine.execSetAutoRetry v s
  | .openChannel => Sys2Proof.Machine.execOpenChannel s
  | .closeChannel => Sys2Proof.Machine.execCloseChannel s
  | .getVersion => Sys2Proof.Machine.execGetVersion s
  | .reportError => Sys2Proof.Machine.execReportError s
  | .invalid e => Sys2Proof.Machine.execInvalid e s

end Sys2Proof.Machine
end

