-- ==== Sys2Proof/Machine/Step.lean ====
section
/-! DEFINITION. One step of the machine: the next move of the schedule. A serial line is decoded and executed in one atomic step
(spec/43_gateway_queues.md R186); with nothing scheduled nothing moves (log 11). -/

namespace Sys2Proof.Machine

/-- One atomic step of one agent (R7, R57). -/
def step (s : State) : Host.Outcome State Fault Refusal :=
  match fetch s with
  | .idle => .next s
  | .instr i s' => exec i s'
  | .refuse r => .refused r
  | .lost s' => .next s'
  | .move e s' => runEvent e s'

/-- The state whose very next move is the delivery of a table word's line (log 16). -/
def State.withFetchWord (s : State) (nbits w : Nat) : State :=
  s.withSchedule (.serLine (tableLine s.cfg nbits w) :: s.schedule)

end Sys2Proof.Machine
end

