-- ==== Sys2Proof/Safety.lean ====
section
/-! DEFINITION. What claims are stated with: when the block runs, quiescence (spec/70_reset_and_hazards.md R299), the data invariant
of the state, honest environments, and the distance of a worker from `Idle`. -/

namespace Sys2Proof.Machine

/-! ## Running and quiescent states -/

/-- The block's agents have steps: constructed and not halted (R24, R251). -/
def State.running (s : State) : Prop := s.constructed = true ∧ s.halted = false

/-- Quiescence (R299). -/
def State.quiescent (s : State) : Prop :=
  s.halted = false ∧ s.outQ = [] ∧ s.inQ = [] ∧ s.txw = .idle ∧ s.rxw = .idle ∧ s.submitting = []

/-- `k` steps of the machine, stopping at the first fault or refusal. -/
abbrev runSteps (k : Nat) (s : State) : Result := Host.Core.run Sys2Proof.core k s

/-- The move in which worker `w` steps. -/
def workerStep : Worker → Answers → Event
  | .txw => .txwStep
  | .rxw => .rxwStep

/-- The state without its log. -/
def State.eraseLog (s : State) : State := { s with log := [] }

/-- The same operation on what a step answers. -/
def eraseLogOf : Result → Result
  | .next s => .next s.eraseLog
  | .fault r => .fault r
  | .refused r => .refused r

end Sys2Proof.Machine

namespace Sys2Proof

/-! ## Frames -/

/-- The Frames on which R123 states the round trip: data Frames that meet R13, remote Frames of length 0 that meet it, one-value Frames whose
value is in the table's range, every parameterless Frame. -/
def Frame.roundTrips (cfg : Config) : Frame → Prop
  | .bus f => f.wf cfg = true ∧ (f.cmd.isRtr = true → f.len = 0)
  | .value c v => ∃ d, d ≤ 15 ∧ valTab cfg c d = some v
  | .plain _ => True
  | .invalid => False

/-- A line up to spelling (R87): the command's one listed byte, every body digit in upper case, one terminator at the end. With no second
spellings of control commands the command byte stays. -/
def canonicalLine (cfg : Config) : List Byte → List Byte
  | [] => []
  | c :: tail =>
    (match cmdOfChar cfg c with | some cmd => charOfCmd cfg cmd | none => c) ::
      (stripCr cfg tail).map (fun b => hexchar (hexval b)) ++ [cfg.terminator]

/-- The Frame meets R13 and the tables of R160, and is not Invalid. -/
def Frame.wf (cfg : Config) : Frame → Bool
  | .bus f => f.wf cfg
  | .value c v => valueFits (valTable cfg c) v
  | .plain _ => true
  | .invalid => false

/-- Encode has a meaning on the Frame (R119). -/
def Frame.encodes (cfg : Config) (F : Frame) : Prop := (encodeFrame cfg F).isSome = true

end Sys2Proof

namespace Sys2Proof.Machine

/-! ## The data invariant -/

/-- A bus phase holds the header of the Frame it sends (R209). -/
def BusPhase.ok (F : Frame) : BusPhase → Prop
  | .bs1 => True
  | .bs1b _ => True
  | .bs2 => True
  | .bs3 h => toTxHeader F = some h
  | .bs4 h => toTxHeader F = some h
  | .bs5 h => toTxHeader F = some h
  | .bs5b => True
  | .bs5c _ => True
  | .bs6 h => toTxHeader F = some h

/-- A USB phase holds the line of the Frame it forwards (R220), and has fewer retries left than there are. -/
def UsbPhase.ok (cfg : Config) (F : Frame) : UsbPhase → Prop
  | .us1 => True
  | .us2 bytes => encodeFrame cfg F = some bytes
  | .us3 bytes left => encodeFrame cfg F = some bytes ∧ left < cfg.usbRetries
  | .us4 bytes left => encodeFrame cfg F = some bytes ∧ left < cfg.usbRetries

/-- The transmit worker never holds Invalid, and forwards frame commands only (R12, R202). -/
def TxwPhase.ok (cfg : Config) : TxwPhase → Prop
  | .idle => True
  | .got F => F ≠ .invalid
  | .bus F p => transmittable F = true ∧ p.ok F
  | .usb F p => transmittable F = true ∧ p.ok cfg F

/-- The receive worker never holds Invalid, and forwards frame commands only (R12, R204). -/
def RxwPhase.ok (cfg : Config) : RxwPhase → Prop
  | .idle => True
  | .got x => x.frame ≠ .invalid
  | .bus F p => transmittable F = true ∧ p.ok F
  | .usb F p => transmittable F = true ∧ p.ok cfg F
  | .rst F => transmittable F = true

/-- The data invariant: the queues are within their capacities (R189) and never hold Invalid (R15, R16), no more slots are occupied
than there are (R262), the workers' phases are sound, and construction registered the callback (R280). -/
structure State.Inv (s : State) : Prop where
  outBound : s.outQ.length ≤ s.cfg.outQCap
  inBound : s.inQ.length ≤ s.cfg.inQCap
  outValid : ∀ F ∈ s.outQ, F ≠ .invalid
  inValid : ∀ x ∈ s.inQ, x.frame ≠ .invalid
  submittingValid : ∀ F ∈ s.submitting, F ≠ .invalid
  fifoBound : s.env.txFifo.length ≤ s.cfg.txFifoDepth
  txwOk : s.txw.ok s.cfg
  rxwOk : s.rxw.ok s.cfg
  callback : s.constructed = true → s.serialCallback = true

/-! ## Honest environments -/

/-- An event of a well-behaved outside: producers submit Frames that meet R13 and the tables (or Invalid, which is rejected), and "a
well-behaved controller gives … an identifier that fits `IdType`" (R268 clause 2). -/
def Event.honest (cfg : Config) : Event → Prop
  | .serLine _ => True
  | .rxFrame _ h _ => h.identifier.toNat ≤ (tagOfFlags (extOf h.idType) false).idMax cfg
  | .txComplete => True
  | .busError _ _ _ => True
  | .setConnected _ => True
  | .tick => True
  | .txwStep _ => True
  | .rxwStep _ => True
  | .submitCall F => F = .invalid ∨ F.wf cfg = true
  | .submitEnqueue _ => True
  | .submitIsr F => F = .invalid ∨ F.wf cfg = true
  | .construct => True
  | .restart => True

/-- The Frame a transmit-worker phase holds. -/
def TxwPhase.frame? : TxwPhase → Option Frame
  | .idle => none
  | .got F => some F
  | .bus F _ => some F
  | .usb F _ => some F

/-- The entry a receive-worker phase holds, with the medium its Frame came from: the bus path serves serial Frames and USB forwarding bus
Frames (R204). -/
def RxwPhase.entry? : RxwPhase → Option Tagged
  | .idle => none
  | .got x => some x
  | .bus F _ => some { frame := F, origin := .serial }
  | .usb F _ => some { frame := F, origin := .bus }
  | .rst F => some { frame := F, origin := .bus }

/-- Every Frame the block holds is as `serial` says if it came from a serial line, and meets R13 and the tables if it came from the bus or
from a producer; and every Frame that the scheduled moves bring from there does. -/
structure State.Holds (serial : Frame → Prop) (s : State) : Prop where
  outQ : ∀ F ∈ s.outQ, F.wf s.cfg = true
  inQ : ∀ x ∈ s.inQ, (x.origin = .bus → x.frame.wf s.cfg = true) ∧ (x.origin = .serial → serial x.frame)
  submitting : ∀ F ∈ s.submitting, F.wf s.cfg = true
  txw : ∀ F, s.txw.frame? = some F → F.wf s.cfg = true
  rxw : ∀ x, s.rxw.entry? = some x → (x.origin = .bus → x.frame.wf s.cfg = true) ∧ (x.origin = .serial → serial x.frame)
  schedule : ∀ e ∈ s.schedule, e.honest s.cfg

/-- Every Frame that will be offered to encode meets its precondition, whatever serial lines brought: a serial Frame is never encoded
(R204), so one above its identifier's maximum, which `ID_RANGE_POLICY = keep` lets in (R105), does no harm. -/
def State.HeldEncode (s : State) : Prop := s.Holds fun _ => True

/-- Every Frame held meets R13 and the tables. -/
def State.HeldWf (s : State) : Prop := s.Holds fun F => F.wf s.cfg = true

/-- The environment's answer to a submit that met a full FIFO stays within `TXFIFO_DEPTH` (R262; log 9). -/
def Answers.fit (cfg : Config) (a : Answers) : Prop := a.fullFifo.length ≤ cfg.txFifoDepth

/-! ## Distance of a worker from Idle -/

/-- At most this many steps of its worker leave the flow-control machine. -/
def BusPhase.rank : BusPhase → Nat
  | .bs1 => 7
  | .bs1b _ => 1
  | .bs2 => 6
  | .bs3 _ => 5
  | .bs4 _ => 4
  | .bs5 _ => 3
  | .bs5b => 2
  | .bs5c _ => 1
  | .bs6 _ => 1

/-- At most this many steps of its worker leave USB forwarding, `retries` being `USB_RETRIES`: 4 with one retry. -/
def UsbPhase.rank (retries : Nat) : UsbPhase → Nat
  | .us1 => 2 + 2 * retries
  | .us2 _ => 1 + 2 * retries
  | .us3 _ left => 2 + 2 * left
  | .us4 _ left => 1 + 2 * left

/-- At most this many steps of TXW reach `Idle`: 12 with one retry. -/
def TxwPhase.rank (retries : Nat) : TxwPhase → Nat
  | .idle => 0
  | .got _ => 10 + 2 * retries
  | .bus _ p => 2 + 2 * retries + p.rank
  | .usb _ p => p.rank retries

/-- At most this many steps of RXW reach `Idle`: 8 with one retry. -/
def RxwPhase.rank (retries : Nat) : RxwPhase → Nat
  | .idle => 0
  | .got _ => max 8 (4 + 2 * retries)
  | .bus _ p => p.rank
  | .usb _ p => 1 + p.rank retries
  | .rst _ => 1

/-- The move is a restart or a construction. -/
def Event.resets : Event → Bool
  | .restart => true
  | .construct => true
  | .serLine _ => false
  | .rxFrame _ _ _ => false
  | .txComplete => false
  | .busError _ _ _ => false
  | .setConnected _ => false
  | .tick => false
  | .txwStep _ => false
  | .rxwStep _ => false
  | .submitCall _ => false
  | .submitEnqueue _ => false
  | .submitIsr _ => false

/-- The move is a step of an agent of the block, a handler, a worker or a producer's call (R8): what R284 refuses before construction and
R251 leaves without a step on a halted block. -/
def Event.ofBlock : Event → Bool
  | .serLine _ => true
  | .rxFrame _ _ _ => true
  | .txComplete => true
  | .busError _ _ _ => true
  | .setConnected _ => false
  | .tick => false
  | .txwStep _ => true
  | .rxwStep _ => true
  | .submitCall _ => true
  | .submitEnqueue _ => true
  | .submitIsr _ => true
  | .construct => false
  | .restart => false

end Sys2Proof.Machine
end

