-- ==== Sys2Proof/Certificates/Slice0/Obligations.lean ====
section
/-! DEFINITION. The statements for the provers. A statement about every state holds for every configuration, schedule and environment,
since State carries them (logs 1, 11). "Running" is constructed and not halted. -/

open Sys2Proof Sys2Proof.Machine

/-! ## The codec: lines -/

/-- Lines written out byte by byte from 30_encoding.md R72 to R77 and 95_test_vectors.md decode to the commands they stand for, and two
commands encode to the lines written out, their digits in upper case (R102), under the configuration of reset (whose control bytes and value
tables are PRESUMED, logs 3 and 4). -/
def Obligations.WrittenOutLinesDecode : Prop :=
  decode Config.default
      [0x74, 0x31, 0x32, 0x33, 0x38, 0x41, 0x41, 0x42, 0x42, 0x43, 0x43, 0x44, 0x44, 0x30, 0x31, 0x32, 0x33, 0x34, 0x35, 0x36, 0x37, 0x0D] =
    .instr (.stdData 0x123 8 [0xAA, 0xBB, 0xCC, 0xDD, 0x01, 0x23, 0x45, 0x67]) ∧
  decode Config.default
      [0x54, 0x31, 0x41, 0x42, 0x43, 0x44, 0x45, 0x46, 0x30, 0x33, 0x31, 0x31, 0x32, 0x32, 0x33, 0x33, 0x0D] =
    .instr (.extData 0x1ABCDEF0 3 [0x11, 0x22, 0x33]) ∧
  decode Config.default [0x72, 0x31, 0x32, 0x33, 0x0D] = .instr (.stdRemote 0x123) ∧
  decode Config.default [0x52, 0x30, 0x30, 0x30, 0x30, 0x30, 0x31, 0x32, 0x33, 0x0D] = .instr (.extRemote 0x123) ∧
  decode Config.default [0x53, 0x36, 0x0D] = .instr (.setBitrate 6) ∧
  decode Config.default [0x4F, 0x0D] = .instr .openChannel ∧
  decode Config.default [0x78, 0x31, 0x32, 0x33, 0x0D] = .instr (.invalid (.badCmd 0x78)) ∧
  decode Config.default [0x74, 0x31, 0x32, 0x33, 0x32, 0x61, 0x42, 0x63, 0x44, 0x0D] = .instr (.stdData 0x123 2 [0xAB, 0xCD]) ∧
  encode Config.default (.stdData 0x123 2 [0xAB, 0xCD]) = some [0x74, 0x31, 0x32, 0x33, 0x32, 0x41, 0x42, 0x43, 0x44, 0x0D] ∧
  decode Config.default [0x52, 0x31, 0x61, 0x62, 0x63, 0x64, 0x65, 0x66, 0x30] = .instr (.extRemote 0x1ABCDEF0) ∧
  encode Config.default (.extRemote 0x1ABCDEF0) = some [0x52, 0x31, 0x41, 0x42, 0x43, 0x44, 0x45, 0x46, 0x30, 0x0D]

/-- For every configuration that meets its constraints and every well-formed command of all eleven, with every operand value, the line
encode writes decodes to that command. -/
def Obligations.DecodeUndoesEncode : Prop :=
  ∀ (cfg : Config) (i : Instr), cfg.wf = true → i.wf cfg = true →
    ∃ line, encode cfg i = some line ∧ decode cfg line = .instr i

/-- R123: a Frame of the kinds the rule lists (data Frames by the source's words, the other kinds by the rule's own derivation), encoded into a
buffer of at least the largest size, decodes to a command whose Frame is the same in every field. With the constants of R5 that size is 27. -/
def Obligations.FrameRoundTrip : Prop :=
  (∀ (cfg : Config) (F : Frame) (cap : Nat), cfg.wf = true → F.roundTrips cfg → cfg.maxSize ≤ cap →
    ∃ line i, encodeCap cfg F cap = .written line ∧ decode cfg line = .instr i ∧ i.frame = F) ∧
  (∀ cfg : Config, cfg.stdIdDigits = 3 → cfg.extIdDigits = 8 → cfg.maxDlc = 8 → cfg.maxSize = 27)

/-- The other direction (R87): where a line decodes to a valid command, with both open policies read as `invalid`, the line encode writes
for that command is the given line up to case, terminator and a second spelling of its command byte (log 37). So no two lines that differ
otherwise decode to one command. -/
def Obligations.EncodeOfDecodeIsTheLineUpToCase : Prop :=
  ∀ (cfg : Config) (buf : List Byte) (i : Instr), cfg.wf = true → cfg.excessPolicy = .set .invalid →
    cfg.idRangePolicy = .set .invalid → decode cfg buf = .instr i → (∀ e, i ≠ .invalid e) →
    ∃ line, encode cfg i = some line ∧ canonicalLine cfg line = canonicalLine cfg buf

/-- Every valid command that decode answers is well-formed, unless `ID_RANGE_POLICY` is read as `keep` (R13, R105). -/
def Obligations.DecodedCommandsAreWellFormed : Prop :=
  ∀ (cfg : Config) (buf : List Byte) (i : Instr), cfg.wf = true → idRangeReading cfg ≠ some .keep →
    decode cfg buf = .instr i → (∀ e, i ≠ .invalid e) → i.wf cfg = true

/-- What a data line decodes to (R44, R105 to R107): the identifier is the positional value of its digits, most significant first, and byte
`i` is the `i`-th digit pair, high nibble first. -/
def Obligations.DataLineFields : Prop :=
  ∀ (cfg : Config) (c : FrameCmd) (ids ds : List Byte) (l : Byte), c.isRtr = false → ids.length = c.idDigits cfg →
    (∀ b ∈ ids ++ l :: ds, ishex b = true) → hexval l ≤ cfg.maxDlc → ds.length = 2 * hexval l →
    ((List.range (c.idDigits cfg)).map fun j => hexval (ids.getD j 0) * 16 ^ (c.idDigits cfg - 1 - j)).sum ≤ c.idMax cfg →
    ∃ data : List Byte, data.length = hexval l ∧
      (∀ i, i < hexval l → (data.getD i 0).toNat = hexval (ds.getD (2 * i) 0) * 16 + hexval (ds.getD (2 * i + 1) 0)) ∧
      decode cfg (charOfFrameCmd c :: (ids ++ l :: ds ++ [cfg.terminator])) =
        .instr (mkInstr c
          (BitVec.ofNat 32 ((List.range (c.idDigits cfg)).map fun j => hexval (ids.getD j 0) * 16 ^ (c.idDigits cfg - 1 - j)).sum)
          (hexval l) data)

/-- R241: a command byte outside the table gives Invalid with `E_BADCMD` and the byte, whatever the body. -/
def Obligations.UnknownCommandByteIsInvalid : Prop :=
  ∀ (cfg : Config) (c b : Byte) (rest : List Byte), cmdOfChar cfg c = none →
    decode cfg (c :: b :: rest) = .instr (.invalid (.badCmd c))

/-- R242: after a valid command byte, the lowest body position without a hex digit is reported with its byte, wherever it stands and
whatever the format; and `E_BADCHAR` is reported for nothing else. That validation comes before every structural check (R249), and that a
position is a 0-based offset into the line, are the spec's decision D8 (logs 26, 35); that one trailing CR at most is stripped is D3
(log 35). -/
def Obligations.NonHexBodyByteIsInvalid : Prop :=
  ∀ (cfg : Config) (c : Byte) (cmd : Cmd) (tail : List Byte) (p : Nat) (b : Byte), tail ≠ [] → cmdOfChar cfg c = some cmd →
    (decode cfg (c :: tail) = .instr (.invalid (.badChar (p + 1) b)) ↔
      ((stripCr cfg tail)[p]? = some b ∧ ishex b = false ∧ ∀ q, q < p → ∀ d, (stripCr cfg tail)[q]? = some d → ishex d = true))

/-- R243: the structural causes, each with its detail, on bodies of hex digits; and `E_ID_RANGE` and `E_EXCESS` are reported only where
their policies read `invalid`. That an undefined value index gives Invalid is the spec's decision D2, that the positions are 0-based
offsets into the line D8 (logs 26, 35). -/
def Obligations.StructuralFailuresAreInvalid : Prop :=
  ∀ (cfg : Config) (c : Byte) (body : List Byte), (∀ b ∈ body, ishex b = true) →
    (∀ fc, cmdOfChar cfg c = some (.frame fc) → body.length < fc.idDigits cfg →
      decode cfg (c :: (body ++ [cfg.terminator])) = .instr (.invalid (.shortId 1))) ∧
    (∀ fc, cmdOfChar cfg c = some (.frame fc) → fc.isRtr = false → fc.idDigits cfg ≤ body.length →
      hexNum (body.take (fc.idDigits cfg)) ≤ fc.idMax cfg →
      (body.length = fc.idDigits cfg →
        decode cfg (c :: (body ++ [cfg.terminator])) = .instr (.invalid (.shortDlc (1 + fc.idDigits cfg)))) ∧
      (∀ l ds, body.drop (fc.idDigits cfg) = l :: ds →
        (cfg.maxDlc < hexval l → decode cfg (c :: (body ++ [cfg.terminator])) = .instr (.invalid (.dlcRange (hexval l)))) ∧
        (hexval l ≤ cfg.maxDlc → ds.length < 2 * hexval l →
          decode cfg (c :: (body ++ [cfg.terminator])) = .instr (.invalid (.shortData (hexval l) ds.length))))) ∧
    (∀ vc, cmdOfChar cfg c = some (.value vc) →
      (body = [] → decode cfg (c :: (body ++ [cfg.terminator])) = .instr (.invalid (.shortValue 1))) ∧
      (∀ d rest, body = d :: rest → valTab cfg vc (hexval d) = none →
        decode cfg (c :: (body ++ [cfg.terminator])) = .instr (.invalid (.badValue (hexval d))))) ∧
    (∀ n, decode cfg (c :: (body ++ [cfg.terminator])) = .instr (.invalid (.idRange n)) → idRangeReading cfg = some .invalid) ∧
    (∀ pos m, decode cfg (c :: (body ++ [cfg.terminator])) = .instr (.invalid (.excess pos m)) → excessReading cfg = some .invalid)

/-- R109: hex digits beyond the last field of any well-formed command: the position is the end of the command's format, and the policy
decides; unset it is refused. -/
def Obligations.ExcessDigitsFollowThePolicy : Prop :=
  ∀ (cfg : Config) (i : Instr) (line extra : List Byte), cfg.wf = true → i.wf cfg = true →
    encode cfg i = some (line ++ [cfg.terminator]) → extra ≠ [] → (∀ b ∈ extra, ishex b = true) →
    decode cfg (line ++ extra ++ [cfg.terminator]) =
      (match excessReading cfg with
       | none => .refuse .excessUnset
       | some .invalid => .instr (.invalid (.excess line.length (line.length + extra.length)))
       | some .ignore => .instr i)

/-- R105: digits that spell an identifier above the width's maximum, in a line otherwise right (nothing more for a remote command; a length
digit and the digit pairs of the bytes `data` for a data command): the policy decides; unset it is refused. `keep` and `mask` carry the payload
on. -/
def Obligations.IdentifierRangeFollowsThePolicy : Prop :=
  ∀ (cfg : Config) (c : FrameCmd) (ids ds : List Byte) (l : Byte) (data : List Byte), ids.length = c.idDigits cfg →
    (∀ b ∈ ids ++ l :: ds, ishex b = true) → c.idMax cfg < hexNum ids →
    hexval l ≤ cfg.maxDlc → ds.length = 2 * hexval l → data.length = hexval l →
    (∀ i, i < hexval l → (data.getD i 0).toNat = hexval (ds.getD (2 * i) 0) * 16 + hexval (ds.getD (2 * i + 1) 0)) →
    decode cfg (charOfFrameCmd c :: (ids ++ (if c.isRtr then [] else l :: ds) ++ [cfg.terminator])) =
      (match idRangeReading cfg with
       | none => .refuse .idRangeUnset
       | some .invalid => .instr (.invalid (.idRange (hexNum ids)))
       | some .keep => .instr (mkInstr c (BitVec.ofNat 32 (hexNum ids)) (hexval l) data)
       | some .mask => .instr (mkInstr c (BitVec.ofNat 32 (hexNum ids &&& c.idMax cfg)) (hexval l) data))

/-- The hex alphabet is the 22 bytes of R79 and R100, with the values of R101, and `hexchar` is upper case (R102). Decode does not see the
case of a digit nor whether the line ends in CR (R70, R103): two bodies of hex digits that spell the same digit values decode alike, a
lower-case letter and its upper-case form do wherever they stand and whatever stands beside them, and so does a
non-empty body without its terminator. -/
def Obligations.CaseAndTerminatorDoNotMatter : Prop :=
  (∀ b : Byte, ishex b = true ↔
    b ∈ ([0x30, 0x31, 0x32, 0x33, 0x34, 0x35, 0x36, 0x37, 0x38, 0x39, 0x41, 0x42, 0x43, 0x44, 0x45, 0x46,
      0x61, 0x62, 0x63, 0x64, 0x65, 0x66] : List Byte)) ∧
  ([0x30, 0x31, 0x32, 0x33, 0x34, 0x35, 0x36, 0x37, 0x38, 0x39, 0x41, 0x42, 0x43, 0x44, 0x45, 0x46,
    0x61, 0x62, 0x63, 0x64, 0x65, 0x66] : List Byte).map hexval =
      [0, 1, 2, 3, 4, 5, 6, 7, 8, 9, 10, 11, 12, 13, 14, 15, 10, 11, 12, 13, 14, 15] ∧
  (List.range 16).map hexchar =
    [0x30, 0x31, 0x32, 0x33, 0x34, 0x35, 0x36, 0x37, 0x38, 0x39, 0x41, 0x42, 0x43, 0x44, 0x45, 0x46] ∧
  (∀ (cfg : Config) (c b : Byte) (before after : List Byte), b ∈ ([0x61, 0x62, 0x63, 0x64, 0x65, 0x66] : List Byte) →
    decode cfg (c :: (before ++ b :: after ++ [cfg.terminator])) = decode cfg (c :: (before ++ (b - 0x20) :: after ++ [cfg.terminator]))) ∧
  ∀ (cfg : Config) (c : Byte) (body body' : List Byte), (∀ b ∈ body, ishex b = true) → (∀ b ∈ body', ishex b = true) →
    body.map hexval = body'.map hexval →
    decode cfg (c :: (body ++ [cfg.terminator])) = decode cfg (c :: (body' ++ [cfg.terminator])) ∧
    (body ≠ [] → ishex cfg.terminator = false → decode cfg (c :: body) = decode cfg (c :: (body ++ [cfg.terminator])))

/-! ## The codec: size, encode, headers -/

/-- R117: the byte count an encode into a buffer of any capacity returns is the value the sizing function predicts. -/
def Obligations.EncodeWritesExactlySizeBytes : Prop :=
  ∀ (cfg : Config) (F : Frame) (cap : Nat) (bytes : List Byte), encodeCap cfg F cap = .written bytes → size cfg F = some bytes.length

/-- R118: sizes lie between 2 and the largest size; with the digits and `MAX_DLC` of R5 between 2 and 27, a StdData line at most 22 bytes, and
the bounds are attained. -/
def Obligations.SizeBounds : Prop :=
  ∀ cfg : Config,
    (∀ F n, (∀ f, F = .bus f → f.len ≤ cfg.maxDlc) → size cfg F = some n →
      2 ≤ n ∧ n ≤ cfg.maxSize ∧
      (cfg.stdIdDigits = 3 → cfg.extIdDigits = 8 → cfg.maxDlc = 8 →
        n ≤ 27 ∧ (∀ f, F = .bus f → f.cmd = .stdData → n ≤ 22) ∧
          (n = 27 ↔ ∃ f, F = .bus f ∧ f.cmd = .extData ∧ f.len = 8))) ∧
    (∀ c, size cfg (.plain c) = some 2)

/-- R119: encode fails exactly where the capacity is below the size, and then answers no buffer content. -/
def Obligations.EncodeFailsBelowSize : Prop :=
  ∀ (cfg : Config) (F : Frame) (need cap : Nat) (bytes : List Byte), size cfg F = some need → encodeFrame cfg F = some bytes →
    (need ≤ cap → encodeCap cfg F cap = .written bytes) ∧ (cap < need → encodeCap cfg F cap = .bufTooSmall)

/-- The bytes of the four frame lines (R119, R140 to R143): command character, the identifier's upper-case digits, most significant first (3
or 8 by R5), for data the length digit and the digit pairs, terminator. -/
def Obligations.FrameLineBytes : Prop :=
  ∀ (cfg : Config) (id : CanId) (data : List Byte), data.length ≤ cfg.maxDlc →
    (id.toNat ≤ cfg.stdIdMax →
      encode cfg (.stdRemote id) =
        some ([0x72] ++ ((List.range cfg.stdIdDigits).map fun j => hexchar (id.toNat / 16 ^ (cfg.stdIdDigits - 1 - j) % 16)) ++ [cfg.terminator]) ∧
      encode cfg (.stdData id data.length data) =
        some ([0x74] ++ ((List.range cfg.stdIdDigits).map fun j => hexchar (id.toNat / 16 ^ (cfg.stdIdDigits - 1 - j) % 16)) ++
          [hexchar data.length] ++ data.flatMap (fun b => [hexchar (b.toNat / 16), hexchar (b.toNat % 16)]) ++ [cfg.terminator])) ∧
    (id.toNat ≤ cfg.extIdMax →
      encode cfg (.extRemote id) =
        some ([0x52] ++ ((List.range cfg.extIdDigits).map fun j => hexchar (id.toNat / 16 ^ (cfg.extIdDigits - 1 - j) % 16)) ++ [cfg.terminator]) ∧
      encode cfg (.extData id data.length data) =
        some ([0x54] ++ ((List.range cfg.extIdDigits).map fun j => hexchar (id.toNat / 16 ^ (cfg.extIdDigits - 1 - j) % 16)) ++
          [hexchar data.length] ++ data.flatMap (fun b => [hexchar (b.toNat / 16), hexchar (b.toNat % 16)]) ++ [cfg.terminator]))

/-- R120, R121: a frame command's Frame maps its four quantities straight across with the fixed defaults; every other Frame has no header. -/
def Obligations.HeaderConversion : Prop :=
  (∀ f : BusFrame,
    toTxHeader (.bus f) = some
      { identifier := f.id, idType := if f.ext then .extended else .standard, txFrameType := if f.rtr then .remote else .data,
        dataLength := f.len, fdFormat := .classic, bitRateSwitch := .off, errorStateIndicator := .active } ∧
    toRxHeader (.bus f) = some
      { identifier := f.id, idType := if f.ext then .extended else .standard, rxFrameType := if f.rtr then .remote else .data,
        dataLength := f.len, fdFormat := .classic, bitRateSwitch := .off, errorStateIndicator := .active }) ∧
  (∀ F : Frame, (∀ f, F ≠ .bus f) → toTxHeader F = none ∧ toRxHeader F = none)

/-- Wrap of a Frame's own header and payload gives the Frame back, for both header forms (R108, R110, R111, R120, R121; 95_test_vectors.md
V-X). -/
def Obligations.WrapUndoesHeaderConversion : Prop :=
  ∀ (cfg : Config) (f : BusFrame) (th : TxHeader) (rh : RxHeader), f.wf cfg = true → toTxHeader (.bus f) = some th →
    toRxHeader (.bus f) = some rh → wrapTx cfg th f.data = some (.bus f) ∧ wrapRx cfg rh f.data = some (.bus f)

/-- R112, R113: the constructors build the Frame of the decoded command of the same operands, inside their preconditions. -/
def Obligations.ConstructorsBuildTheCommandFrames : Prop :=
  ∀ (cfg : Config) (id : CanId) (bytes : List Byte) (len : Nat), len ≤ cfg.maxDlc → len ≤ bytes.length →
    (id.toNat ≤ cfg.stdIdMax → mkRemote cfg id false = some (Instr.stdRemote id).frame ∧
      mkData cfg id false bytes len = some (Instr.stdData id len (bytes.take len)).frame) ∧
    (id.toNat ≤ cfg.extIdMax → mkRemote cfg id true = some (Instr.extRemote id).frame ∧
      mkData cfg id true bytes len = some (Instr.extData id len (bytes.take len)).frame)

/-! ## What each command does in its own step -/

/-- R140 to R143 with R184, R186: on a running block with room in InQ, each frame command completes: its Frame, flags as the rule writes
them, goes to the tail of InQ with origin Serial, and nothing else changes. -/
def Obligations.FrameCommandsAreDelivered : Prop :=
  ∀ (s : State) (id : CanId) (len : Nat) (data : List Byte), s.running → s.inQ.length < s.cfg.inQCap →
    exec (.stdData id len data) s = .next { s with inQ := s.inQ ++
      [{ frame := .bus { cmd := .stdData, id := id, ext := false, rtr := false, len := len, data := data }, origin := .serial }] } ∧
    exec (.extData id len data) s = .next { s with inQ := s.inQ ++
      [{ frame := .bus { cmd := .extData, id := id, ext := true, rtr := false, len := len, data := data }, origin := .serial }] } ∧
    exec (.stdRemote id) s = .next { s with inQ := s.inQ ++
      [{ frame := .bus { cmd := .stdRemote, id := id, ext := false, rtr := true, len := 0, data := [] }, origin := .serial }] } ∧
    exec (.extRemote id) s = .next { s with inQ := s.inQ ++
      [{ frame := .bus { cmd := .extRemote, id := id, ext := true, rtr := true, len := 0, data := [] }, origin := .serial }] }

/-- R161 to R168 with R184, R186: on a running block with room in InQ, each control command completes: its Frame goes to the tail of InQ,
and nothing else changes. -/
def Obligations.ControlCommandsAreDelivered : Prop :=
  ∀ (s : State) (v : Nat), s.running → s.inQ.length < s.cfg.inQCap →
    exec (.setBitrate v) s = .next { s with inQ := s.inQ ++ [{ frame := .value .setBitrate v, origin := .serial }] } ∧
    exec (.setMode v) s = .next { s with inQ := s.inQ ++ [{ frame := .value .setMode v, origin := .serial }] } ∧
    exec (.setAutoRetry v) s = .next { s with inQ := s.inQ ++ [{ frame := .value .setAutoRetry v, origin := .serial }] } ∧
    exec .openChannel s = .next { s with inQ := s.inQ ++ [{ frame := .plain .openChannel, origin := .serial }] } ∧
    exec .closeChannel s = .next { s with inQ := s.inQ ++ [{ frame := .plain .closeChannel, origin := .serial }] } ∧
    exec .getVersion s = .next { s with inQ := s.inQ ++ [{ frame := .plain .getVersion, origin := .serial }] } ∧
    exec .reportError s = .next { s with inQ := s.inQ ++ [{ frame := .plain .reportError, origin := .serial }] }

/-- R114, R169, R184: on a running block Invalid completes: the cause is logged, and nothing else changes, even where InQ is full. -/
def Obligations.InvalidIsLoggedAndRejected : Prop :=
  ∀ (s : State) (e : DecodeError), s.running → exec (.invalid e) s = .next { s with log := s.log ++ [.decodeError e] }

/-- R244, R251: a valid command that meets a full InQ halts the block and changes nothing else. -/
def Obligations.FullInQueueHalts : Prop :=
  ∀ (s : State) (i : Instr), s.running → (∀ e, i ≠ .invalid e) → s.inQ.length = s.cfg.inQCap →
    exec i s = .next { s with halted := true }

/-- R24, R284 and R251: before construction a command is refused, and so is every handler, worker and producer that moves (a completion needs a
transmission to complete); on a halted block a command has no step, and neither has any of them: the move passes, and a completion only takes
its slot. That a move without a step passes is the schedule's form (log 11); that the environment's own part of a completion still happens (R268
clause 3) is log 12. -/
def Obligations.CommandsNeedARunningBlock : Prop :=
  ∀ s : State,
    (s.constructed = false →
      (∀ i, exec i s = .refused .notConstructed) ∧
      (∀ e rest, s.schedule = e :: rest → e.ofBlock = true → (e = .txComplete → s.env.txFifo ≠ []) →
        step s = .refused .notConstructed)) ∧
    (s.constructed = true → s.halted = true →
      (∀ i, exec i s = .next s) ∧
      (∀ e rest, s.schedule = e :: rest → e.ofBlock = true → e ≠ .txComplete → s.serialCallback = true →
        step s = .next { s with schedule := rest }) ∧
      (∀ slot slots rest, s.schedule = .txComplete :: rest → s.env.txFifo = slot :: slots →
        step s = .next { s with schedule := rest, env := { s.env with txFifo := slots } }))

/-- A step whose next move is a serial line that decodes to an instruction is exec of that instruction, the move taken from the schedule
(R186); an undecodable line is refused by decode's own name. That a line above MAX_LINE, which R268 clause 1 keeps the environment from
delivering, is refused is the model's choice (DEDUCED, log 23). -/
def Obligations.StepRunsTheDecodedInstruction : Prop :=
  ∀ (s : State) (buf : List Byte) (rest : List Event), s.running → s.serialCallback = true → s.schedule = .serLine buf :: rest →
    (∀ i, buf.length ≤ s.cfg.maxLine → decode s.cfg buf = .instr i → step s = exec i { s with schedule := rest }) ∧
    (∀ r, buf.length ≤ s.cfg.maxLine → decode s.cfg buf = .refuse r → step s = .refused (.decode r)) ∧
    (s.cfg.maxLine < buf.length → step s = .refused .lineTooLong)

/-! ## Entry points and handlers, as steps -/

/-- R182: submitFromISR rejects Invalid first, appends at the tail of OutQ while there is room, and halts on a full OutQ with its
entries kept. -/
def Obligations.SubmitFromIsrStep : Prop :=
  ∀ (s : State) (F : Frame) (rest : List Event), s.running → s.schedule = .submitIsr F :: rest →
    (F = .invalid → step s = .next { s with schedule := rest, ret := some .rejected }) ∧
    (F ≠ .invalid → s.outQ.length < s.cfg.outQCap →
      step s = .next { s with schedule := rest, outQ := s.outQ ++ [F], ret := some .accepted }) ∧
    (F ≠ .invalid → s.outQ.length = s.cfg.outQCap → step s = .next { s with schedule := rest, halted := true })

/-- R180: S1 of submit rejects Invalid and otherwise leaves the producer at S2; S2 enqueues while OutQ has room, and on a full OutQ the
producer has no step. -/
def Obligations.SubmitSteps : Prop :=
  ∀ (s : State) (F : Frame) (k : Nat) (rest : List Event), s.running →
    (s.schedule = .submitCall F :: rest →
      (F = .invalid → step s = .next { s with schedule := rest, ret := some .rejected }) ∧
      (F ≠ .invalid → step s = .next { s with schedule := rest, submitting := s.submitting ++ [F] })) ∧
    (s.schedule = .submitEnqueue k :: rest → s.submitting[k]? = some F →
      (s.outQ.length < s.cfg.outQCap →
        step s = .next { s with schedule := rest, outQ := s.outQ ++ [F], submitting := s.submitting.eraseIdx k, ret := some .accepted }) ∧
      (s.outQ.length = s.cfg.outQCap → step s = .next { s with schedule := rest }))

/-- R254, R108, R110, R184, R250: RX_ISR on either FIFO wraps the drained frame and delivers it with origin Bus; a header whose length is not
the buffer's, or above MAX_DLC, and a full InQ, halt the block. It touches no counter and no flag. That a broken header takes the fatal path
is the spec's decision D12 (log 35). -/
def Obligations.RxIsrStep : Prop :=
  ∀ (s : State) (fifo : RxFifo) (h : RxHeader) (bytes : List Byte) (rest : List Event), s.running →
    s.schedule = .rxFrame fifo h bytes :: rest →
    ((h.dataLength ≠ bytes.length ∨ s.cfg.maxDlc < h.dataLength) → step s = .next { s with schedule := rest, halted := true }) ∧
    (h.dataLength = bytes.length → h.dataLength ≤ s.cfg.maxDlc → s.inQ.length = s.cfg.inQCap →
      step s = .next { s with schedule := rest, halted := true }) ∧
    (h.dataLength = bytes.length → h.dataLength ≤ s.cfg.maxDlc → s.inQ.length < s.cfg.inQCap →
      step s = .next { s with
        schedule := rest
        inQ := s.inQ ++ [{
          frame := .bus {
            cmd := match h.idType, h.rxFrameType with
              | .standard, .data => .stdData
              | .standard, .remote => .stdRemote
              | .extended, .data => .extData
              | .extended, .remote => .extRemote
            id := h.identifier
            ext := decide (h.idType = .extended)
            rtr := decide (h.rxFrameType = .remote)
            len := h.dataLength
            data := bytes }
          origin := .bus }] })

/-- R255, R268 clause 3: a completion takes the oldest slot, resets both counters and wakes exactly one waiting worker, the receive worker
first; nobody where neither waits. That the wake clears the woken worker's flag is the spec's reading D20, and that it is the oldest slot that
completes D30 (log 35). -/
def Obligations.TxCompleteStep : Prop :=
  ∀ (s : State) (e : HwEntry) (l : List HwEntry) (rest : List Event), s.running → s.schedule = .txComplete :: rest →
    s.env.txFifo = e :: l →
    step s = .next { s with
      schedule := rest
      env := { s.env with txFifo := l }
      dropCount := 0
      errCount := 0
      waiting := { rxw := false, txw := s.waiting.rxw && s.waiting.txw }
      notify := { rxw := s.notify.rxw || s.waiting.rxw, txw := s.notify.txw || (!s.waiting.rxw && s.waiting.txw) } }

/-- R256: ERR_ISR counts the error. At the threshold, under every reading, it counts a drop and aborts the named slot or every slot; below
it, it does neither. Past the threshold `eq` does neither and `ge` does both (what `geReset` does there is the model's choice, log 10). That a
selector is an entry's place in the FIFO, and that an aborted entry leaves it without a completion (D24), is log 22. -/
def Obligations.BusErrorStep : Prop :=
  ∀ (s : State) (v : ErrVector) (sel : Option Nat) (post r : BerrReading) (rest : List Event), s.running →
    s.schedule = .busError v sel post :: rest → (∀ k, sel = some k → k < s.env.txFifo.length) →
    (s.cfg.berrPostTrip = some r ∨ (s.cfg.berrPostTrip = none ∧ post = r)) →
    (s.errCount + 1 < s.cfg.errThreshold → step s = .next { s with schedule := rest, errCount := s.errCount + 1 }) ∧
    ((s.errCount + 1 = s.cfg.errThreshold ∨ (s.cfg.errThreshold < s.errCount + 1 ∧ r = .ge)) →
      step s = .next { s with
        schedule := rest
        dropCount := s.dropCount + 1
        errCount := if r = .geReset then 0 else s.errCount + 1
        env := { s.env with txFifo := match sel with | some k => s.env.txFifo.eraseIdx k | none => [] } }) ∧
    (s.cfg.errThreshold < s.errCount + 1 → r = .eq → step s = .next { s with schedule := rest, errCount := s.errCount + 1 })

/-- R280, R281: construction from an unconstructed block gives the state of R31 and keeps the configuration, the environment and the moves to
come; a second construction of a running block changes nothing but what the call returns. R283: a restart loses every queue entry, both
counters, every flag, the phases, the log and the callback, and leaves the block unconstructed; what is not the block's stays, and `Halted` stays
until construction (log 14). R268 clauses 5 and 7: a change of the connection writes that one state of the environment, and a tick, time not being
modelled (D27, log 27), nothing; neither needs a running block. -/
def Obligations.MovesFromOutsideTheBlock : Prop :=
  ∀ (s : State) (rest : List Event),
    (s.schedule = .construct :: rest →
      (s.constructed = false →
        step s = .next { State.reset with cfg := s.cfg, env := s.env, schedule := rest, ret := some .constructed }) ∧
      (s.running → step s = .next { s with schedule := rest, ret := some .alreadyConstructed })) ∧
    (s.schedule = .restart :: rest →
      step s = .next { s with
        outQ := [], inQ := [], dropCount := 0, errCount := 0
        waiting := { rxw := false, txw := false }, notify := { rxw := false, txw := false }
        txw := .idle, rxw := .idle, constructed := false, serialCallback := false
        log := [], submitting := [], ret := none, schedule := rest }) ∧
    (∀ b, s.schedule = .setConnected b :: rest →
      step s = .next { s with schedule := rest, env := { s.env with connected := b } }) ∧
    (s.schedule = .tick :: rest → step s = .next { s with schedule := rest })

/-- The values R31 states for the state after construction. The zeros and falses are the decision D15 (log 13), the capacities
15 and 150 the defaults of R5 (log 2). -/
def Obligations.ResetIsTheTable : Prop :=
  State.reset.outQ = [] ∧ State.reset.inQ = [] ∧ State.reset.dropCount = 0 ∧ State.reset.errCount = 0 ∧
  State.reset.waiting = { rxw := false, txw := false } ∧ State.reset.notify = { rxw := false, txw := false } ∧
  State.reset.txw = .idle ∧ State.reset.rxw = .idle ∧ State.reset.halted = false ∧ State.reset.constructed = true ∧
  State.reset.serialCallback = true ∧ State.reset.log = [] ∧ State.reset.cfg.outQCap = 15 ∧ State.reset.cfg.inQCap = 150

/-! ## The workers, step by step -/

/-- R201, R203: TXW dequeues OutQ and RXW dequeues InQ, each blocked while its queue is empty. And the routing of R202, R204 under the
readings D16 and D17 (log 35): a frame command goes to the bus from OutQ or from serial, to USB from the bus; any other entry is discarded. -/
def Obligations.WorkersDequeueAndRoute : Prop :=
  ∀ (s : State) (a : Answers) (rest : List Event), s.running →
    (s.schedule = .txwStep a :: rest →
      (s.txw = .idle → s.outQ = [] → step s = .next { s with schedule := rest }) ∧
      (∀ F l, s.txw = .idle → s.outQ = F :: l → step s = .next { s with schedule := rest, outQ := l, txw := .got F }) ∧
      (∀ f, s.txw = .got (.bus f) → step s = .next { s with schedule := rest, txw := .bus (.bus f) .bs1 }) ∧
      (∀ F, s.txw = .got F → (∀ f, F ≠ .bus f) → step s = .next { s with schedule := rest, txw := .idle })) ∧
    (s.schedule = .rxwStep a :: rest →
      (s.rxw = .idle → s.inQ = [] → step s = .next { s with schedule := rest }) ∧
      (∀ x l, s.rxw = .idle → s.inQ = x :: l → step s = .next { s with schedule := rest, inQ := l, rxw := .got x }) ∧
      (∀ f, s.rxw = .got { frame := .bus f, origin := .serial } →
        step s = .next { s with schedule := rest, rxw := .bus (.bus f) .bs1 }) ∧
      (∀ f, s.rxw = .got { frame := .bus f, origin := .bus } →
        step s = .next { s with schedule := rest, rxw := .usb (.bus f) .us1 }) ∧
      (∀ x, s.rxw = .got x → (∀ f, x.frame ≠ .bus f) → step s = .next { s with schedule := rest, rxw := .idle }))

/-- R205: the receive worker logs the drop count, clears it and is idle; `errCount` is not touched. -/
def Obligations.BusReceptionClearsTheDropCount : Prop :=
  ∀ (s : State) (F : Frame) (a : Answers) (rest : List Event), s.running → s.schedule = .rxwStep a :: rest → s.rxw = .rst F →
    step s = .next { s with schedule := rest, log := s.log ++ [.dropReport s.dropCount], dropCount := 0, rxw := .idle }

/-- R207, R208: the breaker test is strict, and an open breaker counts the drop and ends the attempt without a hardware operation. -/
def Obligations.BreakerTestAndDrop : Prop :=
  ∀ (s : State) (w : Worker) (F : Frame) (d : Nat) (a : Answers) (rest : List Event), s.running →
    (s.cfg.dropThreshold < s.dropCount →
      step (setBus w F .bs1 (s.withSchedule (workerStep w a :: rest))) = .next (setBus w F (.bs1b s.dropCount) (s.withSchedule rest))) ∧
    (s.dropCount ≤ s.cfg.dropThreshold →
      step (setBus w F .bs1 (s.withSchedule (workerStep w a :: rest))) = .next (setBus w F .bs2 (s.withSchedule rest))) ∧
    (s.cfg.atomicCounters = false →
      step (setBus w F (.bs1b d) (s.withSchedule (workerStep w a :: rest))) =
        .next (exitBus w F { s with schedule := rest, dropCount := d + 1 })) ∧
    (s.cfg.atomicCounters = true →
      step (setBus w F (.bs1b d) (s.withSchedule (workerStep w a :: rest))) =
        .next (exitBus w F { s with schedule := rest, dropCount := s.dropCount + 1 }))

/-- R209, R210, R211, R214: the header conversion and its logged failure without a count, the room query, marking the wait, and the
timeout's count in two steps or, with ATOMIC_COUNTERS, in one. And R212, R213 under the decisions D20, D21, D27 (logs 27, 35): the notified exit
that consumes the slot, and the timed-out exit that leaves the waiting flag as it is. -/
def Obligations.RoomWaitSteps : Prop :=
  ∀ (s : State) (w : Worker) (F : Frame) (h : TxHeader) (d : Nat) (a : Answers) (rest : List Event), s.running →
    (toTxHeader F = some h →
      step (setBus w F .bs2 (s.withSchedule (workerStep w a :: rest))) = .next (setBus w F (.bs3 h) (s.withSchedule rest))) ∧
    (toTxHeader F = none →
      step (setBus w F .bs2 (s.withSchedule (workerStep w a :: rest))) =
        .next (exitBus w F { s with schedule := rest, log := s.log ++ [.hdrConvFail (cmdOf F)] })) ∧
    (s.cfg.atomicCounters = false →
      step (setBus w F .bs5b (s.withSchedule (workerStep w a :: rest))) = .next (setBus w F (.bs5c s.dropCount) (s.withSchedule rest))) ∧
    (s.cfg.atomicCounters = true →
      step (setBus w F .bs5b (s.withSchedule (workerStep w a :: rest))) =
        .next (exitBus w F { s with schedule := rest, dropCount := s.dropCount + 1 })) ∧
    step (setBus w F (.bs5c d) (s.withSchedule (workerStep w a :: rest))) =
      .next (exitBus w F { s with schedule := rest, dropCount := d + 1 }) ∧
    (s.cfg.txFifoDepth ≤ s.env.txFifo.length →
      step (setBus w F (.bs3 h) (s.withSchedule (workerStep w a :: rest))) = .next (setBus w F (.bs4 h) (s.withSchedule rest))) ∧
    (s.env.txFifo.length < s.cfg.txFifoDepth →
      step (setBus w F (.bs3 h) (s.withSchedule (workerStep w a :: rest))) = .next (setBus w F (.bs6 h) (s.withSchedule rest))) ∧
    step (setBus w F (.bs4 h) (s.withSchedule (workerStep w a :: rest))) =
      .next (setBus w F (.bs5 h) { s with schedule := rest, waiting := s.waiting.set w true }) ∧
    (s.notify.get w = true →
      step (setBus w F (.bs5 h) (s.withSchedule (workerStep w a :: rest))) =
        .next (setBus w F (.bs6 h) { s with schedule := rest, notify := s.notify.set w false })) ∧
    (s.notify.get w = false →
      step (setBus w F (.bs5 h) (s.withSchedule (workerStep w a :: rest))) = .next (setBus w F .bs5b (s.withSchedule rest)))

/-- R215, R263: with a free slot the submit appends the header and the Frame's bytes and ends the attempt, and no counter changes; with none,
SUBMIT_FULL_POLICY decides: unset it is refused, else the environment's answer stands (log 9). That a Frame outside R13 is submitted too, with the
bytes there are up to its length, is the model's choice (log 39). -/
def Obligations.HardwareSubmitStep : Prop :=
  ∀ (s : State) (w : Worker) (f : BusFrame) (h : TxHeader) (a : Answers) (rest : List Event), s.running →
    (s.env.txFifo.length < s.cfg.txFifoDepth →
      step (setBus w (.bus f) (.bs6 h) (s.withSchedule (workerStep w a :: rest))) =
        .next (exitBus w (.bus f) { s with
          schedule := rest
          env := { s.env with txFifo := s.env.txFifo ++ [{ header := h, bytes := f.data.take f.len }] } })) ∧
    (s.cfg.txFifoDepth ≤ s.env.txFifo.length → s.cfg.submitFullPolicy = .unset →
      step (setBus w (.bus f) (.bs6 h) (s.withSchedule (workerStep w a :: rest))) = .refused .submitFullUnset) ∧
    (s.cfg.txFifoDepth ≤ s.env.txFifo.length → s.cfg.submitFullPolicy = .environment → a.fullFifo.length ≤ s.cfg.txFifoDepth →
      step (setBus w (.bus f) (.bs6 h) (s.withSchedule (workerStep w a :: rest))) =
        .next (exitBus w (.bus f) { s with schedule := rest, env := { s.env with txFifo := a.fullFifo } }))

/-- R220, R221, R223, R224: not connected, the copy is dropped without a log event or a queue call; connected, the encoded line is offered, a line
above the buffer is refused, and so is a Frame outside encode's precondition. An accepted attempt hands the line over; a refused one leads, while
a retry is left, through the delay to the next, and the last drops the Frame with a warning that lacks the terminator, if the rate limiter passes
it. `USB_RETRIES` retries follow the first attempt: one by R5 (log 38). No counter and no flag changes. That the delay has no length is D27
(R222, log 27), that the limiter may hold the warning back D35 (log 25). -/
def Obligations.UsbForwardingSteps : Prop :=
  ∀ (s : State) (w : Worker) (F : Frame) (bytes : List Byte) (a : Answers) (rest : List Event), s.running →
    (s.env.connected = false →
      step (setUsb w F .us1 (s.withSchedule (workerStep w a :: rest))) = .next (exitUsb w F (s.withSchedule rest))) ∧
    (s.env.connected = true → encodeFrame s.cfg F = none →
      step (setUsb w F .us1 (s.withSchedule (workerStep w a :: rest))) = .refused .encodePrecondition) ∧
    (s.env.connected = true → encodeFrame s.cfg F = some bytes → bytes.length ≤ s.cfg.usbBufSize →
      step (setUsb w F .us1 (s.withSchedule (workerStep w a :: rest))) = .next (setUsb w F (.us2 bytes) (s.withSchedule rest))) ∧
    (s.env.connected = true → encodeFrame s.cfg F = some bytes → s.cfg.usbBufSize < bytes.length →
      step (setUsb w F .us1 (s.withSchedule (workerStep w a :: rest))) = .refused .usbBufTooSmall) ∧
    (∀ p left, ((p = .us2 bytes ∧ left = s.cfg.usbRetries) ∨ p = .us4 bytes left) →
      (a.usbAccepts = true →
        step (setUsb w F p (s.withSchedule (workerStep w a :: rest))) =
          .next (exitUsb w F { s with schedule := rest, env := { s.env with usbOut := s.env.usbOut ++ [bytes] } })) ∧
      (∀ r, a.usbAccepts = false → left = r + 1 →
        step (setUsb w F p (s.withSchedule (workerStep w a :: rest))) = .next (setUsb w F (.us3 bytes r) (s.withSchedule rest))) ∧
      (a.usbAccepts = false → left = 0 →
        step (setUsb w F p (s.withSchedule (workerStep w a :: rest))) =
          .next (exitUsb w F { s with
            schedule := rest
            log := if a.warnPasses then s.log ++ [.usbBusy bytes.dropLast] else s.log }))) ∧
    (∀ left, step (setUsb w F (.us3 bytes left) (s.withSchedule (workerStep w a :: rest))) =
      .next (setUsb w F (.us4 bytes left) (s.withSchedule rest)))

/-! ## The paths of a Frame (R225) -/

/-- A serial frame command on a block whose receive worker is idle, with the breaker closed and a free slot, is in the hardware FIFO after its
delivery and six steps of the receive worker, whatever the environment answers; nothing else has changed: no echo to USB, no counter, no flag
(R186, R203, R204, R207 to R216; program S1). -/
def Obligations.SerialFrameReachesTheBus : Prop :=
  ∀ (s : State) (buf : List Byte) (i : Instr) (h : TxHeader) (a1 a2 a3 a4 a5 a6 : Answers) (rest : List Event),
    s.running → s.serialCallback = true → s.rxw = .idle → s.inQ = [] → 0 < s.cfg.inQCap → s.dropCount ≤ s.cfg.dropThreshold →
    s.env.txFifo.length < s.cfg.txFifoDepth → buf.length ≤ s.cfg.maxLine → decode s.cfg buf = .instr i →
    toTxHeader i.frame = some h →
    s.schedule = .serLine buf :: .rxwStep a1 :: .rxwStep a2 :: .rxwStep a3 :: .rxwStep a4 :: .rxwStep a5 :: .rxwStep a6 :: rest →
    runSteps 7 s = .next { s with
      schedule := rest
      env := { s.env with txFifo := s.env.txFifo ++ [{ header := h, bytes := framePayload i.frame }] } }

/-- R161, R202, R204: a control command that comes in as a serial line is queued, dequeued and discarded in its delivery and two steps of the
receive worker, and one that a producer submits likewise by the transmit worker: the state is then the state before it (but for the moves
made and, after a submit, what the call returned). That the block itself does nothing with a control command is the spec's decision D37, with
D16 (log 35). -/
def Obligations.ControlCommandsPassWithoutEffect : Prop :=
  ∀ (s : State) (buf : List Byte) (i : Instr) (a1 a2 : Answers) (rest : List Event),
    s.running → s.serialCallback = true → (∀ e, i ≠ .invalid e) → toTxHeader i.frame = none →
    (s.rxw = .idle → s.inQ = [] → 0 < s.cfg.inQCap → buf.length ≤ s.cfg.maxLine → decode s.cfg buf = .instr i →
      s.schedule = .serLine buf :: .rxwStep a1 :: .rxwStep a2 :: rest → runSteps 3 s = .next { s with schedule := rest }) ∧
    (s.txw = .idle → s.outQ = [] → 0 < s.cfg.outQCap →
      s.schedule = .submitIsr i.frame :: .txwStep a1 :: .txwStep a2 :: rest →
      runSteps 3 s = .next { s with schedule := rest, ret := some .accepted })

/-- A bus frame on a block whose receive worker is idle, with the transport connected and accepting, is a line of the transport after its
delivery and five steps of the receive worker; the drop count is reported and cleared, and the hardware FIFO is not touched (R254, R203, R204,
R220, R221, R205; program S2). That the drop count is what a bus reception clears, and after forwarding, are the decisions D18 and D19 (log 35). -/
def Obligations.BusFrameReachesUsb : Prop :=
  ∀ (s : State) (fifo : RxFifo) (hd : RxHeader) (bytes line : List Byte) (F : Frame) (a1 a2 a3 a4 a5 : Answers) (rest : List Event),
    s.running → s.rxw = .idle → s.inQ = [] → 0 < s.cfg.inQCap → s.env.connected = true → wrapRx s.cfg hd bytes = some F →
    encodeFrame s.cfg F = some line → line.length ≤ s.cfg.usbBufSize → a4.usbAccepts = true →
    s.schedule = .rxFrame fifo hd bytes :: .rxwStep a1 :: .rxwStep a2 :: .rxwStep a3 :: .rxwStep a4 :: .rxwStep a5 :: rest →
    runSteps 6 s = .next { s with
      schedule := rest
      env := { s.env with usbOut := s.env.usbOut ++ [line] }
      log := s.log ++ [.dropReport s.dropCount]
      dropCount := 0 }

/-- A frame command submitted from interrupt context on a block whose transmit worker is idle goes to both media: the hardware FIFO, and a
copy to the transport, in eight steps of the transmit worker (R182, R201, R202, R207 to R216, R220, R221; program S3). -/
def Obligations.SubmittedFrameReachesBothMedia : Prop :=
  ∀ (s : State) (f : BusFrame) (h : TxHeader) (line : List Byte) (a1 a2 a3 a4 a5 a6 a7 a8 : Answers) (rest : List Event),
    s.running → s.txw = .idle → s.outQ = [] → 0 < s.cfg.outQCap → s.dropCount ≤ s.cfg.dropThreshold →
    s.env.txFifo.length < s.cfg.txFifoDepth → s.env.connected = true → toTxHeader (.bus f) = some h →
    encodeFrame s.cfg (.bus f) = some line → line.length ≤ s.cfg.usbBufSize → a8.usbAccepts = true →
    s.schedule = .submitIsr (.bus f) :: .txwStep a1 :: .txwStep a2 :: .txwStep a3 :: .txwStep a4 :: .txwStep a5 :: .txwStep a6 ::
      .txwStep a7 :: .txwStep a8 :: rest →
    runSteps 9 s = .next { s with
      schedule := rest
      ret := some .accepted
      env := { s.env with
        txFifo := s.env.txFifo ++ [{ header := h, bytes := f.data.take f.len }]
        usbOut := s.env.usbOut ++ [line] } }

/-! ## The flow-control machine over many steps -/

/-- P4 (R207, R208): while the breaker is open, any number of serial frames, taken up by the receive worker one after another, each count one
more drop and none reaches the hardware FIFO, in four steps each, under both settings of ATOMIC_COUNTERS. -/
def Obligations.OpenBreakerCountsAndNeverSubmits : Prop :=
  ∀ (n : Nat) (s : State) (as : List Answers) (rest : List Event), s.running → s.rxw = .idle → s.cfg.dropThreshold < s.dropCount →
    s.inQ.length = n → (∀ x ∈ s.inQ, transmittable x.frame = true ∧ x.origin = .serial) → as.length = 4 * n →
    s.schedule = as.map .rxwStep ++ rest →
    runSteps (4 * n) s = .next { s with schedule := rest, inQ := [], dropCount := s.dropCount + n }

/-- 95_test_vectors.md V-F: with the breaker closed, no free slot and no notification, seven steps of a worker alone count one drop, leave its
waiting flag set and touch no hardware (R207 to R214). That a timeout leaves the flag set is D20 (log 35), that it may come at any time D27
(log 27). -/
def Obligations.RoomTimeoutCountsOneDrop : Prop :=
  ∀ (s : State) (w : Worker) (F : Frame) (h : TxHeader) (a1 a2 a3 a4 a5 a6 a7 : Answers) (rest : List Event), s.running →
    s.cfg.atomicCounters = false → s.dropCount ≤ s.cfg.dropThreshold → s.cfg.txFifoDepth ≤ s.env.txFifo.length →
    s.notify.get w = false → toTxHeader F = some h →
    s.schedule = workerStep w a1 :: workerStep w a2 :: workerStep w a3 :: workerStep w a4 :: workerStep w a5 :: workerStep w a6 ::
      workerStep w a7 :: rest →
    runSteps 7 (setBus w F .bs1 s) =
      .next (exitBus w F { s with schedule := rest, dropCount := s.dropCount + 1, waiting := s.waiting.set w true })

/-- R288, program S7: a completion between a worker's read of the drop count and its write is lost: the count is the value read plus one. -/
def Obligations.CounterResetCanBeLost : Prop :=
  ∀ (s : State) (w : Worker) (F : Frame) (a1 a2 : Answers) (rest : List Event), s.running → s.cfg.atomicCounters = false →
    s.env.txFifo ≠ [] → s.schedule = workerStep w a1 :: .txComplete :: workerStep w a2 :: rest →
    ∃ t, runSteps 3 (setBus w F .bs5b s) = .next t ∧ t.dropCount = s.dropCount + 1 ∧ t.errCount = 0

/-- R289: a completion between the room query and the mark notifies nobody, and the worker times out and counts a drop although a slot is
free; its flag stays set (D20, log 35), and the timeout may come at any time (D27, log 27). -/
def Obligations.WakeUpCanBeLost : Prop :=
  ∀ (s : State) (w : Worker) (F : Frame) (h : TxHeader) (a1 a2 a3 a4 : Answers) (rest : List Event), s.running →
    s.cfg.atomicCounters = false → s.env.txFifo.length = s.cfg.txFifoDepth → s.env.txFifo ≠ [] →
    s.waiting = { rxw := false, txw := false } → s.notify.get w = false →
    s.schedule = .txComplete :: workerStep w a1 :: workerStep w a2 :: workerStep w a3 :: workerStep w a4 :: rest →
    (∃ t, runSteps 1 (setBus w F (.bs4 h) s) = .next t ∧ t.notify = s.notify ∧ t.waiting = s.waiting) ∧
    ∃ t, runSteps 5 (setBus w F (.bs4 h) s) = .next t ∧ t.notify = s.notify ∧ t.dropCount = 1 ∧ t.waiting.get w = true ∧ hwFree t = 1

/-- R256, 95_test_vectors.md V-I: from an error count of 0, with a threshold of 5, four bus errors count errors only and the fifth counts one
drop and aborts, whatever the readings of BERR_POST_TRIP in the five events. That a selector is an entry's place in the FIFO, and that an
aborted entry leaves it without a completion (D24), is log 22. -/
def Obligations.FifthBusErrorAborts : Prop :=
  ∀ (s : State) (v1 v2 v3 v4 v5 : ErrVector) (l1 l2 l3 l4 sel : Option Nat) (p1 p2 p3 p4 p5 : BerrReading) (rest : List Event),
    s.running → s.errCount = 0 → s.cfg.errThreshold = 5 → (∀ k, sel = some k → k < s.env.txFifo.length) →
    s.schedule = .busError v1 l1 p1 :: .busError v2 l2 p2 :: .busError v3 l3 p3 :: .busError v4 l4 p4 :: .busError v5 sel p5 :: rest →
    runSteps 4 s = .next { s with schedule := .busError v5 sel p5 :: rest, errCount := 4 } ∧
    ∃ e, (e = 0 ∨ e = 5) ∧ runSteps 5 s = .next { s with
      schedule := rest
      dropCount := s.dropCount + 1
      errCount := e
      env := { s.env with txFifo := match sel with | some k => s.env.txFifo.eraseIdx k | none => [] } }

/-! ## Whole-machine rules -/

/-- The data invariant holds at reset. -/
def Obligations.ResetMeetsTheInvariant : Prop := State.reset.Inv

/-- Every step keeps the data invariant: queue bounds (R189), no Invalid in a queue or a worker (R12, R15, R16), no more occupied slots than
TXFIFO_DEPTH (R262), header and line of each phase those of its Frame (R209, R220). -/
def Obligations.StepKeepsTheInvariant : Prop :=
  ∀ s t : State, s.Inv → step s = .next t → t.Inv

/-- Every step keeps: all Frames that can come to encode (those from the bus and from producers; a serial Frame never does, R204) meet R13 and
the tables, and the scheduled moves bring only such Frames (R268 clause 2, honest producers). Where `ID_RANGE_POLICY` is not read as `keep`, the
serial Frames held meet them too, and every step keeps that. So in an honest environment no step meets encode's precondition (R119, U9;
log 20). -/
def Obligations.StepKeepsFramesEncodable : Prop :=
  ∀ s : State,
    (∀ t, s.HeldEncode → step s = .next t → t.HeldEncode) ∧
    (∀ t, s.cfg.wf = true → idRangeReading s.cfg ≠ some .keep → s.HeldWf → step s = .next t → t.HeldWf) ∧
    (s.cfg.wf = true → s.HeldEncode → step s ≠ .refused .encodePrecondition)

/-- R298, "never blocks forever": from every phase other than Idle a step of the transmit worker is taken and lowers its distance from Idle, whatever
the environment answers (within TXFIFO_DEPTH), if the Frames held can be encoded and SUBMIT_FULL_POLICY is not unset; no other move but a restart
or a construction changes the phase, whatever steps between. So at most 10 steps of its own, and two for each retry there is (12 with the one
retry of R5), reach Idle; the run clause says so where they stand back to back. The two for each further retry rest on log 38, the exit of the wait in
BS5 without a notification on D27 (log 27), the premise on SUBMIT_FULL_POLICY on log 9. -/
def Obligations.TransmitWorkerAlwaysFinishes : Prop :=
  ∀ s : State,
    (s.running → s.cfg.wf = true → s.cfg.submitFullPolicy = .environment → s.Inv → s.HeldEncode → s.txw ≠ .idle →
      (∀ a rest, s.schedule = .txwStep a :: rest → a.fit s.cfg →
        ∃ t, step s = .next t ∧ t.txw.rank s.cfg.usbRetries < s.txw.rank s.cfg.usbRetries) ∧
      (∀ (as : List Answers) rest, as.length = 10 + 2 * s.cfg.usbRetries → (∀ a ∈ as, a.fit s.cfg) →
        s.schedule = as.map .txwStep ++ rest → ∃ k t, k ≤ 10 + 2 * s.cfg.usbRetries ∧ runSteps k s = .next t ∧ t.txw = .idle)) ∧
    (∀ e rest t, s.schedule = e :: rest → (∀ a, e ≠ .txwStep a) → e.resets = false → step s = .next t → t.txw = s.txw)

/-- The same of the receive worker: at most 8 steps of its own with the one retry of R5, and 4 and two for each retry if that is more (log 38;
the exit of the wait in BS5 without a notification D27, log 27; the premise on SUBMIT_FULL_POLICY log 9). -/
def Obligations.ReceiveWorkerAlwaysFinishes : Prop :=
  ∀ s : State,
    (s.running → s.cfg.wf = true → s.cfg.submitFullPolicy = .environment → s.Inv → s.HeldEncode → s.rxw ≠ .idle →
      (∀ a rest, s.schedule = .rxwStep a :: rest → a.fit s.cfg →
        ∃ t, step s = .next t ∧ t.rxw.rank s.cfg.usbRetries < s.rxw.rank s.cfg.usbRetries) ∧
      (∀ (as : List Answers) rest, as.length = max 8 (4 + 2 * s.cfg.usbRetries) → (∀ a ∈ as, a.fit s.cfg) →
        s.schedule = as.map .rxwStep ++ rest → ∃ k t, k ≤ max 8 (4 + 2 * s.cfg.usbRetries) ∧ runSteps k s = .next t ∧ t.rxw = .idle)) ∧
    (∀ e rest t, s.schedule = e :: rest → (∀ a, e ≠ .rxwStep a) → e.resets = false → step s = .next t → t.rxw = s.rxw)

/-- R251: on a halted block every step leaves the block's state as it is; only the environment and the moves to come change, unless the process
restarts. -/
def Obligations.HaltedBlockIsFrozen : Prop :=
  ∀ s t : State, s.constructed = true → s.halted = true → (∀ rest, s.schedule ≠ .restart :: rest) → step s = .next t →
    t = { s with env := t.env, schedule := t.schedule }

/-- R244, R250: a step halts the block only where an interrupt-context enqueue meets a full queue or a received header breaks wrap's
precondition. -/
def Obligations.OnlyFatalCausesHalt : Prop :=
  ∀ s t : State, s.halted = false → step s = .next t → t.halted = true →
    (∃ buf rest, s.schedule = .serLine buf :: rest ∧ s.cfg.inQCap ≤ s.inQ.length) ∨
    (∃ fifo h bytes rest, s.schedule = .rxFrame fifo h bytes :: rest ∧
      (s.cfg.inQCap ≤ s.inQ.length ∨ h.dataLength ≠ bytes.length ∨ s.cfg.maxDlc < h.dataLength)) ∨
    (∃ F rest, s.schedule = .submitIsr F :: rest ∧ s.cfg.outQCap ≤ s.outQ.length)

/-- R29: no step changes the configuration. -/
def Obligations.StepKeepsTheConfiguration : Prop :=
  ∀ s t : State, step s = .next t → t.cfg = s.cfg

/-- R217: a worker's notification slot becomes set only in a transmit completion, and only where that worker was marked waiting. -/
def Obligations.OnlyTxCompleteNotifies : Prop :=
  ∀ (s t : State) (w : Worker), step s = .next t → s.notify.get w = false → t.notify.get w = true →
    s.waiting.get w = true ∧ ∃ rest, s.schedule = .txComplete :: rest

/-- R17, R18: the drop count changes only in the steps the rule lists as its writers, and the error count only in ERR_ISR and TXC_ISR (or at
restart and construction). -/
def Obligations.OnlyTheListedWritersChangeTheCounters : Prop :=
  ∀ s t : State, step s = .next t →
    (t.dropCount ≠ s.dropCount →
      (∃ rest, s.schedule = .txComplete :: rest ∨ s.schedule = .construct :: rest ∨ s.schedule = .restart :: rest) ∨
      (∃ v sel post rest, s.schedule = .busError v sel post :: rest ∧ s.cfg.errThreshold ≤ s.errCount + 1) ∨
      (∃ a rest F, s.schedule = .txwStep a :: rest ∧
        ((∃ d, s.txw = .bus F (.bs1b d)) ∨ s.txw = .bus F .bs5b ∨ ∃ d, s.txw = .bus F (.bs5c d))) ∨
      (∃ a rest F, s.schedule = .rxwStep a :: rest ∧
        ((∃ d, s.rxw = .bus F (.bs1b d)) ∨ s.rxw = .bus F .bs5b ∨ (∃ d, s.rxw = .bus F (.bs5c d)) ∨ s.rxw = .rst F))) ∧
    (t.errCount ≠ s.errCount →
      (∃ rest, s.schedule = .txComplete :: rest ∨ s.schedule = .construct :: rest ∨ s.schedule = .restart :: rest) ∨
      ∃ v sel post rest, s.schedule = .busError v sel post :: rest)

/-- R52, R188: each queue changes only at its ends, and by the agents R15, R16 and R188 name. OutQ gains at its tail the Frame of a
`submitFromISR` or of a producer that takes step S2 of submit; InQ gains the Frame decoded from a serial line, with origin Serial, or wrapped from
a received frame, with origin Bus. Each queue loses its head to its own worker's step, and only restart and construction clear it. -/
def Obligations.QueuesAreFirstInFirstOut : Prop :=
  ∀ s t : State, step s = .next t →
    (t.outQ = s.outQ ∨
      (∃ F rest, F ≠ .invalid ∧ s.schedule = .submitIsr F :: rest ∧ t.outQ = s.outQ ++ [F]) ∨
      (∃ k F rest, s.schedule = .submitEnqueue k :: rest ∧ s.submitting[k]? = some F ∧ t.outQ = s.outQ ++ [F]) ∨
      (∃ a rest F, s.schedule = .txwStep a :: rest ∧ s.outQ = F :: t.outQ ∧ t.txw = .got F) ∨
      (t.outQ = [] ∧ ∃ rest, s.schedule = .construct :: rest ∨ s.schedule = .restart :: rest)) ∧
    (t.inQ = s.inQ ∨
      (∃ buf i rest, s.schedule = .serLine buf :: rest ∧ decode s.cfg buf = .instr i ∧ (∀ e, i ≠ .invalid e) ∧
        t.inQ = s.inQ ++ [{ frame := i.frame, origin := .serial }]) ∨
      (∃ fifo h bytes F rest, s.schedule = .rxFrame fifo h bytes :: rest ∧ wrapRx s.cfg h bytes = some F ∧
        t.inQ = s.inQ ++ [{ frame := F, origin := .bus }]) ∨
      (∃ a rest x, s.schedule = .rxwStep a :: rest ∧ s.inQ = x :: t.inQ ∧ t.rxw = .got x) ∨
      (t.inQ = [] ∧ ∃ rest, s.schedule = .construct :: rest ∨ s.schedule = .restart :: rest))

/-- R269: a worker's phase is private: it changes in that worker's own step only (or at restart and construction). -/
def Obligations.PhasesChangeInTheirOwnSteps : Prop :=
  ∀ s t : State, step s = .next t →
    (t.txw ≠ s.txw → ∃ rest, (∃ a, s.schedule = .txwStep a :: rest) ∨ s.schedule = .construct :: rest ∨ s.schedule = .restart :: rest) ∧
    (t.rxw ≠ s.rxw → ∃ rest, (∃ a, s.schedule = .rxwStep a :: rest) ∨ s.schedule = .construct :: rest ∨ s.schedule = .restart :: rest)

/-- R27: no rule reads the log: two states that differ in their logs only answer alike, up to the log. -/
def Obligations.TheLogIsNeverRead : Prop :=
  ∀ (s : State) (l : List LogEvent), eraseLogOf (step { s with log := l }) = eraseLogOf (step s)
end

