-- ==== Sys2Proof/Laws/Codec.lean ====
section
/-! SUPPORT. The small lemmas of the codec: the hex functions (R100 to R102), the digit lists encode writes, size, and what
each decode path answers on a body of the right form. -/

namespace Sys2Proof

/-! ## Hex digits -/

theorem hexval_hexchar (v : Nat) (h : v ≤ 15) : hexval (hexchar v) = v := by
  interval_cases v <;> rfl

theorem ishex_hexchar (v : Nat) (h : v ≤ 15) : ishex (hexchar v) = true := by
  interval_cases v <;> rfl

theorem hexval_le (b : Byte) (h : ishex b = true) : hexval b ≤ 15 := by
  simp only [ishex, Bool.or_eq_true, Bool.and_eq_true, decide_eq_true_eq] at h
  unfold hexval
  split
  · omega
  · split <;> omega

/-- A hex digit is not the terminator, which is none (R70). -/
theorem ne_terminator_of_ishex (cfg : Config) (hT : ishex cfg.terminator = false) (b : Byte) (h : ishex b = true) : b ≠ cfg.terminator := by
  rintro rfl
  rw [hT] at h
  cases h

/-! ## The validation pass -/

theorem firstBad_eq_none (pos : Nat) (body : List Byte) : firstBad pos body = none ↔ ∀ b ∈ body, ishex b = true := by
  induction body generalizing pos with
  | nil => simp [firstBad]
  | cons b rest ih =>
    by_cases hb : ishex b = true
    · simp [firstBad, hb, ih]
    · simp [firstBad, hb]

/-! ## The terminator -/

theorem stripCr_append_terminator (cfg : Config) (body : List Byte) : stripCr cfg (body ++ [cfg.terminator]) = body := by
  simp [stripCr]

theorem stripCr_of_hex (cfg : Config) (hT : ishex cfg.terminator = false) (body : List Byte) (h : ∀ b ∈ body, ishex b = true) :
    stripCr cfg body = body := by
  unfold stripCr
  split
  · rename_i hl
    exact absurd rfl (ne_terminator_of_ishex cfg hT _ (h _ (List.mem_of_getLast? hl)))
  · rfl

/-- Decode of a whole line, terminator included: the byte before the body selects, the body is what stands between. -/
theorem decode_line (cfg : Config) (c : Byte) (body : List Byte) :
    decode cfg (c :: (body ++ [cfg.terminator])) = decodeLine cfg c body := by
  have h := stripCr_append_terminator cfg body
  cases body with
  | nil => exact congrArg (decodeLine cfg c) h
  | cons b rest => exact congrArg (decodeLine cfg c) h

/-- Decode of a line whose body is all hex digits goes straight to the command's path. -/
theorem decodeLine_of_hex (cfg : Config) (c : Byte) (cmd : Cmd) (body : List Byte) (hc : cmdOfChar cfg c = some cmd)
    (hb : ∀ b ∈ body, ishex b = true) : decodeLine cfg c body = decodeBody cfg cmd body := by
  simp [decodeLine, hc, (firstBad_eq_none 1 body).2 hb]

theorem checkExcess_self (cfg : Config) (pos : Nat) (i : Instr) : checkExcess cfg pos pos i = .instr i := by
  simp [checkExcess]

/-! ## Digit lists -/

@[simp] theorem idChars_length (id : CanId) (k : Nat) : (idChars id k).length = k := by
  induction k with
  | zero => rfl
  | succ k ih => simp [idChars, ih]

@[simp] theorem payloadChars_length (data : List Byte) : (payloadChars data).length = 2 * data.length := by
  induction data with
  | nil => rfl
  | cons b rest ih => simp [payloadChars, ih]; omega

theorem nibble_le (x : BitVec n) : (x &&& 0xF).toNat ≤ 15 := by
  rw [BitVec.toNat_and]
  exact le_trans Nat.and_le_right (le_trans (Nat.mod_le _ _) (by norm_num))

theorem highNibble_le (b : Byte) : (b >>> 4).toNat ≤ 15 := by
  simp only [BitVec.toNat_ushiftRight, Nat.shiftRight_eq_div_pow]
  have := b.isLt
  omega

theorem idChars_hex (id : CanId) (k : Nat) : ∀ b ∈ idChars id k, ishex b = true := by
  induction k with
  | zero => simp [idChars]
  | succ k ih =>
    intro b hb
    rcases List.mem_cons.1 hb with rfl | hb
    · exact ishex_hexchar _ (nibble_le _)
    · exact ih b hb

theorem payloadChars_hex (data : List Byte) : ∀ b ∈ payloadChars data, ishex b = true := by
  induction data with
  | nil => simp [payloadChars]
  | cons x rest ih =>
    intro b hb
    rcases List.mem_cons.1 hb with rfl | hb
    · exact ishex_hexchar _ (highNibble_le _)
    · rcases List.mem_cons.1 hb with rfl | hb
      · exact ishex_hexchar _ (nibble_le _)
      · exact ih b hb

/-- A byte is its two nibbles. -/
theorem byte_of_nibbles (b : Byte) : BitVec.ofNat 8 ((b >>> 4).toNat * 16 + (b &&& 0xF).toNat) = b := by
  revert b; decide

/-- `bytePairs` undoes `payloadChars`. -/
theorem bytePairs_payloadChars (data : List Byte) : bytePairs (payloadChars data) = data := by
  induction data with
  | nil => rfl
  | cons b rest ih =>
    rw [payloadChars, bytePairs, ih, hexval_hexchar _ (highNibble_le b), hexval_hexchar _ (nibble_le b), byte_of_nibbles b]

/-! ## The digits of an identifier -/

theorem hexNum_append (xs ys : List Byte) (a : Nat) :
    (xs ++ ys).foldl (fun acc d => acc * 16 + hexval d) a = ys.foldl (fun acc d => acc * 16 + hexval d)
      (xs.foldl (fun acc d => acc * 16 + hexval d) a) := List.foldl_append

theorem foldl_idChars (id : CanId) (k a : Nat) :
    (idChars id k).foldl (fun acc d => acc * 16 + hexval d) a = a * 16 ^ k + id.toNat % 16 ^ k := by
  induction k generalizing a with
  | zero => simp [idChars, Nat.mod_one]
  | succ k ih =>
    have hd : ((id >>> (4 * k)) &&& (0xF : CanId)).toNat = id.toNat / 16 ^ k % 16 := by
      rw [BitVec.toNat_and, BitVec.toNat_ushiftRight, Nat.shiftRight_eq_div_pow]
      rw [show (0xF : CanId).toNat = 2 ^ 4 - 1 from rfl, Nat.and_two_pow_sub_one_eq_mod, pow_mul]
      norm_num
    simp only [idChars, List.foldl_cons]
    rw [ih, hexval_hexchar _ (nibble_le _), hd, pow_succ, Nat.mod_mul]
    ring

/-- The digits of an identifier spell it, where it fits them (R44). -/
theorem hexNum_idChars (id : CanId) (k : Nat) (h : id.toNat < 16 ^ k) : hexNum (idChars id k) = id.toNat := by
  unfold hexNum
  rw [foldl_idChars]
  simp [Nat.mod_eq_of_lt h]

theorem foldl_hex_lt (ds : List Byte) (h : ∀ b ∈ ds, ishex b = true) (a : Nat) :
    ds.foldl (fun acc d => acc * 16 + hexval d) a < (a + 1) * 16 ^ ds.length := by
  induction ds generalizing a with
  | nil => simp
  | cons d rest ih =>
    have hd := hexval_le d (h d (by simp))
    have hr := ih (fun b hb => h b (by simp [hb])) (a * 16 + hexval d)
    simp only [List.foldl_cons, List.length_cons]
    calc _ < (a * 16 + hexval d + 1) * 16 ^ rest.length := hr
      _ ≤ (a * 16 + 16) * 16 ^ rest.length := Nat.mul_le_mul_right _ (by omega)
      _ = (a + 1) * 16 ^ (rest.length + 1) := by ring

/-- `k` hex digits spell less than `16^k` (R122: no overflow). -/
theorem hexNum_lt (ds : List Byte) (h : ∀ b ∈ ds, ishex b = true) : hexNum ds < 16 ^ ds.length := by
  have := foldl_hex_lt ds h 0
  simpa [hexNum] using this

theorem bytePairs_length (ds : List Byte) (n : Nat) (h : ds.length = 2 * n) : (bytePairs ds).length = n := by
  induction n generalizing ds with
  | zero => simp only [Nat.mul_zero, List.length_eq_zero_iff] at h; subst h; rfl
  | succ n ih =>
    match ds, h with
    | hi :: lo :: rest, h =>
      simp only [List.length_cons] at h
      simp [bytePairs, ih rest (by omega)]

/-! ## Frames and tags -/

@[simp] theorem idDigits_stdData (cfg : Config) : FrameCmd.stdData.idDigits cfg = cfg.stdIdDigits := rfl
@[simp] theorem idDigits_extData (cfg : Config) : FrameCmd.extData.idDigits cfg = cfg.extIdDigits := rfl
@[simp] theorem idDigits_stdRemote (cfg : Config) : FrameCmd.stdRemote.idDigits cfg = cfg.stdIdDigits := rfl
@[simp] theorem idDigits_extRemote (cfg : Config) : FrameCmd.extRemote.idDigits cfg = cfg.extIdDigits := rfl
@[simp] theorem idMax_stdData (cfg : Config) : FrameCmd.stdData.idMax cfg = cfg.stdIdMax := rfl
@[simp] theorem idMax_extData (cfg : Config) : FrameCmd.extData.idMax cfg = cfg.extIdMax := rfl
@[simp] theorem idMax_stdRemote (cfg : Config) : FrameCmd.stdRemote.idMax cfg = cfg.stdIdMax := rfl
@[simp] theorem idMax_extRemote (cfg : Config) : FrameCmd.extRemote.idMax cfg = cfg.extIdMax := rfl

/-- What the formats need of the protocol constants, one fact each. -/
theorem wireWf_iff (cfg : Config) : cfg.wireWf = true ↔
    ishex cfg.terminator = false ∧ cfg.maxDlc ≤ 15 ∧ cfg.stdIdDigits ≤ 8 ∧ cfg.extIdDigits ≤ 8 ∧
      cfg.stdIdMax < 16 ^ cfg.stdIdDigits ∧ cfg.extIdMax < 16 ^ cfg.extIdDigits := by
  simp [Config.wireWf, and_assoc]

theorem wf_wireWf (cfg : Config) (h : cfg.wf = true) : cfg.wireWf = true := by
  simp only [Config.wf, Bool.and_eq_true] at h
  exact h.1.1.1.1.1.1.1.1

theorem idMax_lt (cfg : Config) (h : cfg.wireWf = true) (c : FrameCmd) : c.idMax cfg < 16 ^ c.idDigits cfg := by
  obtain ⟨-, -, -, -, hs, he⟩ := (wireWf_iff cfg).1 h
  cases c
  · exact hs
  · exact he
  · exact hs
  · exact he

/-- An identifier's digits fit its register of 32 bits (R122). -/
theorem idDigits_le (cfg : Config) (h : cfg.wireWf = true) (c : FrameCmd) : c.idDigits cfg ≤ 8 := by
  obtain ⟨-, -, hs, he, -, -⟩ := (wireWf_iff cfg).1 h
  cases c
  · exact hs
  · exact he
  · exact hs
  · exact he

/-- R13, one fact each. -/
theorem busFrame_wf_iff (cfg : Config) (f : BusFrame) : f.wf cfg = true ↔
    f.ext = f.cmd.isExt ∧ f.rtr = f.cmd.isRtr ∧ f.id.toNat ≤ f.cmd.idMax cfg ∧ f.len ≤ cfg.maxDlc ∧ f.data.length = f.len := by
  simp [BusFrame.wf, and_assoc]

/-- The Frame made of a tag and operands meets R13 where the operands do. -/
theorem mkBusFrame_wf (cfg : Config) (c : FrameCmd) (id : CanId) (len : Nat) (data : List Byte) :
    (mkBusFrame c id len data).wf cfg = true ↔ id.toNat ≤ c.idMax cfg ∧ len ≤ cfg.maxDlc ∧ data.length = len := by
  simp [busFrame_wf_iff, mkBusFrame]

@[simp] theorem mkBusFrame_cmd (c : FrameCmd) (id : CanId) (len : Nat) (data : List Byte) : (mkBusFrame c id len data).cmd = c := rfl
@[simp] theorem mkBusFrame_id (c : FrameCmd) (id : CanId) (len : Nat) (data : List Byte) : (mkBusFrame c id len data).id = id := rfl
@[simp] theorem mkBusFrame_len (c : FrameCmd) (id : CanId) (len : Nat) (data : List Byte) : (mkBusFrame c id len data).len = len := rfl
@[simp] theorem mkBusFrame_data (c : FrameCmd) (id : CanId) (len : Nat) (data : List Byte) :
    (mkBusFrame c id len data).data = data := rfl

/-- The four frame commands' characters select their tags under every configuration (R78). -/
@[simp] theorem cmdOfChar_frame (cfg : Config) (c : FrameCmd) : cmdOfChar cfg (charOfFrameCmd c) = some (.frame c) := by
  cases c <;> simp [cmdOfChar, charOfFrameCmd]

/-! ## Encode -/

theorem encodeFrame_bus_isSome (cfg : Config) (f : BusFrame) : (encodeFrame cfg (.bus f)).isSome = f.wf cfg := by
  by_cases h : f.wf cfg = true <;> simp [encodeFrame, h]

/-- What an encode into a buffer answers, once (R119). -/
theorem encodeCap_cases (cfg : Config) (F : Frame) (cap : Nat) :
    (∃ need bytes, size cfg F = some need ∧ encodeFrame cfg F = some bytes ∧
      ((cap < need ∧ Machine.encodeCap cfg F cap = .bufTooSmall) ∨ (need ≤ cap ∧ Machine.encodeCap cfg F cap = .written bytes))) ∨
    (encodeFrame cfg F = none ∧ Machine.encodeCap cfg F cap = .refused) := by
  cases hs : size cfg F with
  | none =>
    have : F = .invalid := by
      cases F with
      | bus f => cases hc : f.cmd <;> simp [size, hc] at hs
      | value c v => simp [size] at hs
      | plain c => simp [size] at hs
      | invalid => rfl
    subst this
    exact .inr ⟨rfl, rfl⟩
  | some need =>
    cases he : encodeFrame cfg F with
    | none => exact .inr ⟨rfl, by simp [Machine.encodeCap, hs, he]⟩
    | some bytes =>
      refine .inl ⟨need, bytes, rfl, rfl, ?_⟩
      by_cases hc : cap < need
      · exact .inl ⟨hc, by simp [Machine.encodeCap, hs, he, hc]⟩
      · exact .inr ⟨by omega, by simp [Machine.encodeCap, hs, he, hc]⟩

end Sys2Proof
end

