-- ==== Sys2Proof/Laws/State.lean ====
section
/-! SUPPORT. One lemma per field per write of State, true by rfl: later proofs never unfold a record update. -/

namespace Sys2Proof.Machine.State

variable (s : State)

/-! ## withOutQ -/

@[simp] theorem withOutQ_cfg (q : List Frame) : (s.withOutQ q).cfg = s.cfg := rfl
@[simp] theorem withOutQ_outQ (q : List Frame) : (s.withOutQ q).outQ = q := rfl
@[simp] theorem withOutQ_inQ (q : List Frame) : (s.withOutQ q).inQ = s.inQ := rfl
@[simp] theorem withOutQ_dropCount (q : List Frame) : (s.withOutQ q).dropCount = s.dropCount := rfl
@[simp] theorem withOutQ_errCount (q : List Frame) : (s.withOutQ q).errCount = s.errCount := rfl
@[simp] theorem withOutQ_waiting (q : List Frame) : (s.withOutQ q).waiting = s.waiting := rfl
@[simp] theorem withOutQ_notify (q : List Frame) : (s.withOutQ q).notify = s.notify := rfl
@[simp] theorem withOutQ_txw (q : List Frame) : (s.withOutQ q).txw = s.txw := rfl
@[simp] theorem withOutQ_rxw (q : List Frame) : (s.withOutQ q).rxw = s.rxw := rfl
@[simp] theorem withOutQ_halted (q : List Frame) : (s.withOutQ q).halted = s.halted := rfl
@[simp] theorem withOutQ_constructed (q : List Frame) : (s.withOutQ q).constructed = s.constructed := rfl
@[simp] theorem withOutQ_serialCallback (q : List Frame) : (s.withOutQ q).serialCallback = s.serialCallback := rfl
@[simp] theorem withOutQ_log (q : List Frame) : (s.withOutQ q).log = s.log := rfl
@[simp] theorem withOutQ_submitting (q : List Frame) : (s.withOutQ q).submitting = s.submitting := rfl
@[simp] theorem withOutQ_ret (q : List Frame) : (s.withOutQ q).ret = s.ret := rfl
@[simp] theorem withOutQ_env (q : List Frame) : (s.withOutQ q).env = s.env := rfl
@[simp] theorem withOutQ_schedule (q : List Frame) : (s.withOutQ q).schedule = s.schedule := rfl

/-! ## withInQ -/

@[simp] theorem withInQ_cfg (q : List Tagged) : (s.withInQ q).cfg = s.cfg := rfl
@[simp] theorem withInQ_outQ (q : List Tagged) : (s.withInQ q).outQ = s.outQ := rfl
@[simp] theorem withInQ_inQ (q : List Tagged) : (s.withInQ q).inQ = q := rfl
@[simp] theorem withInQ_dropCount (q : List Tagged) : (s.withInQ q).dropCount = s.dropCount := rfl
@[simp] theorem withInQ_errCount (q : List Tagged) : (s.withInQ q).errCount = s.errCount := rfl
@[simp] theorem withInQ_waiting (q : List Tagged) : (s.withInQ q).waiting = s.waiting := rfl
@[simp] theorem withInQ_notify (q : List Tagged) : (s.withInQ q).notify = s.notify := rfl
@[simp] theorem withInQ_txw (q : List Tagged) : (s.withInQ q).txw = s.txw := rfl
@[simp] theorem withInQ_rxw (q : List Tagged) : (s.withInQ q).rxw = s.rxw := rfl
@[simp] theorem withInQ_halted (q : List Tagged) : (s.withInQ q).halted = s.halted := rfl
@[simp] theorem withInQ_constructed (q : List Tagged) : (s.withInQ q).constructed = s.constructed := rfl
@[simp] theorem withInQ_serialCallback (q : List Tagged) : (s.withInQ q).serialCallback = s.serialCallback := rfl
@[simp] theorem withInQ_log (q : List Tagged) : (s.withInQ q).log = s.log := rfl
@[simp] theorem withInQ_submitting (q : List Tagged) : (s.withInQ q).submitting = s.submitting := rfl
@[simp] theorem withInQ_ret (q : List Tagged) : (s.withInQ q).ret = s.ret := rfl
@[simp] theorem withInQ_env (q : List Tagged) : (s.withInQ q).env = s.env := rfl
@[simp] theorem withInQ_schedule (q : List Tagged) : (s.withInQ q).schedule = s.schedule := rfl

/-! ## withDrop -/

@[simp] theorem withDrop_cfg (n : Nat) : (s.withDrop n).cfg = s.cfg := rfl
@[simp] theorem withDrop_outQ (n : Nat) : (s.withDrop n).outQ = s.outQ := rfl
@[simp] theorem withDrop_inQ (n : Nat) : (s.withDrop n).inQ = s.inQ := rfl
@[simp] theorem withDrop_dropCount (n : Nat) : (s.withDrop n).dropCount = n := rfl
@[simp] theorem withDrop_errCount (n : Nat) : (s.withDrop n).errCount = s.errCount := rfl
@[simp] theorem withDrop_waiting (n : Nat) : (s.withDrop n).waiting = s.waiting := rfl
@[simp] theorem withDrop_notify (n : Nat) : (s.withDrop n).notify = s.notify := rfl
@[simp] theorem withDrop_txw (n : Nat) : (s.withDrop n).txw = s.txw := rfl
@[simp] theorem withDrop_rxw (n : Nat) : (s.withDrop n).rxw = s.rxw := rfl
@[simp] theorem withDrop_halted (n : Nat) : (s.withDrop n).halted = s.halted := rfl
@[simp] theorem withDrop_constructed (n : Nat) : (s.withDrop n).constructed = s.constructed := rfl
@[simp] theorem withDrop_serialCallback (n : Nat) : (s.withDrop n).serialCallback = s.serialCallback := rfl
@[simp] theorem withDrop_log (n : Nat) : (s.withDrop n).log = s.log := rfl
@[simp] theorem withDrop_submitting (n : Nat) : (s.withDrop n).submitting = s.submitting := rfl
@[simp] theorem withDrop_ret (n : Nat) : (s.withDrop n).ret = s.ret := rfl
@[simp] theorem withDrop_env (n : Nat) : (s.withDrop n).env = s.env := rfl
@[simp] theorem withDrop_schedule (n : Nat) : (s.withDrop n).schedule = s.schedule := rfl

/-! ## withErr -/

@[simp] theorem withErr_cfg (n : Nat) : (s.withErr n).cfg = s.cfg := rfl
@[simp] theorem withErr_outQ (n : Nat) : (s.withErr n).outQ = s.outQ := rfl
@[simp] theorem withErr_inQ (n : Nat) : (s.withErr n).inQ = s.inQ := rfl
@[simp] theorem withErr_dropCount (n : Nat) : (s.withErr n).dropCount = s.dropCount := rfl
@[simp] theorem withErr_errCount (n : Nat) : (s.withErr n).errCount = n := rfl
@[simp] theorem withErr_waiting (n : Nat) : (s.withErr n).waiting = s.waiting := rfl
@[simp] theorem withErr_notify (n : Nat) : (s.withErr n).notify = s.notify := rfl
@[simp] theorem withErr_txw (n : Nat) : (s.withErr n).txw = s.txw := rfl
@[simp] theorem withErr_rxw (n : Nat) : (s.withErr n).rxw = s.rxw := rfl
@[simp] theorem withErr_halted (n : Nat) : (s.withErr n).halted = s.halted := rfl
@[simp] theorem withErr_constructed (n : Nat) : (s.withErr n).constructed = s.constructed := rfl
@[simp] theorem withErr_serialCallback (n : Nat) : (s.withErr n).serialCallback = s.serialCallback := rfl
@[simp] theorem withErr_log (n : Nat) : (s.withErr n).log = s.log := rfl
@[simp] theorem withErr_submitting (n : Nat) : (s.withErr n).submitting = s.submitting := rfl
@[simp] theorem withErr_ret (n : Nat) : (s.withErr n).ret = s.ret := rfl
@[simp] theorem withErr_env (n : Nat) : (s.withErr n).env = s.env := rfl
@[simp] theorem withErr_schedule (n : Nat) : (s.withErr n).schedule = s.schedule := rfl

/-! ## withWaiting -/

@[simp] theorem withWaiting_cfg (w : Worker) (b : Bool) : (s.withWaiting w b).cfg = s.cfg := rfl
@[simp] theorem withWaiting_outQ (w : Worker) (b : Bool) : (s.withWaiting w b).outQ = s.outQ := rfl
@[simp] theorem withWaiting_inQ (w : Worker) (b : Bool) : (s.withWaiting w b).inQ = s.inQ := rfl
@[simp] theorem withWaiting_dropCount (w : Worker) (b : Bool) : (s.withWaiting w b).dropCount = s.dropCount := rfl
@[simp] theorem withWaiting_errCount (w : Worker) (b : Bool) : (s.withWaiting w b).errCount = s.errCount := rfl
@[simp] theorem withWaiting_waiting (w : Worker) (b : Bool) : (s.withWaiting w b).waiting = s.waiting.set w b := rfl
@[simp] theorem withWaiting_notify (w : Worker) (b : Bool) : (s.withWaiting w b).notify = s.notify := rfl
@[simp] theorem withWaiting_txw (w : Worker) (b : Bool) : (s.withWaiting w b).txw = s.txw := rfl
@[simp] theorem withWaiting_rxw (w : Worker) (b : Bool) : (s.withWaiting w b).rxw = s.rxw := rfl
@[simp] theorem withWaiting_halted (w : Worker) (b : Bool) : (s.withWaiting w b).halted = s.halted := rfl
@[simp] theorem withWaiting_constructed (w : Worker) (b : Bool) : (s.withWaiting w b).constructed = s.constructed := rfl
@[simp] theorem withWaiting_serialCallback (w : Worker) (b : Bool) : (s.withWaiting w b).serialCallback = s.serialCallback := rfl
@[simp] theorem withWaiting_log (w : Worker) (b : Bool) : (s.withWaiting w b).log = s.log := rfl
@[simp] theorem withWaiting_submitting (w : Worker) (b : Bool) : (s.withWaiting w b).submitting = s.submitting := rfl
@[simp] theorem withWaiting_ret (w : Worker) (b : Bool) : (s.withWaiting w b).ret = s.ret := rfl
@[simp] theorem withWaiting_env (w : Worker) (b : Bool) : (s.withWaiting w b).env = s.env := rfl
@[simp] theorem withWaiting_schedule (w : Worker) (b : Bool) : (s.withWaiting w b).schedule = s.schedule := rfl

/-! ## withNotify -/

@[simp] theorem withNotify_cfg (w : Worker) (b : Bool) : (s.withNotify w b).cfg = s.cfg := rfl
@[simp] theorem withNotify_outQ (w : Worker) (b : Bool) : (s.withNotify w b).outQ = s.outQ := rfl
@[simp] theorem withNotify_inQ (w : Worker) (b : Bool) : (s.withNotify w b).inQ = s.inQ := rfl
@[simp] theorem withNotify_dropCount (w : Worker) (b : Bool) : (s.withNotify w b).dropCount = s.dropCount := rfl
@[simp] theorem withNotify_errCount (w : Worker) (b : Bool) : (s.withNotify w b).errCount = s.errCount := rfl
@[simp] theorem withNotify_waiting (w : Worker) (b : Bool) : (s.withNotify w b).waiting = s.waiting := rfl
@[simp] theorem withNotify_notify (w : Worker) (b : Bool) : (s.withNotify w b).notify = s.notify.set w b := rfl
@[simp] theorem withNotify_txw (w : Worker) (b : Bool) : (s.withNotify w b).txw = s.txw := rfl
@[simp] theorem withNotify_rxw (w : Worker) (b : Bool) : (s.withNotify w b).rxw = s.rxw := rfl
@[simp] theorem withNotify_halted (w : Worker) (b : Bool) : (s.withNotify w b).halted = s.halted := rfl
@[simp] theorem withNotify_constructed (w : Worker) (b : Bool) : (s.withNotify w b).constructed = s.constructed := rfl
@[simp] theorem withNotify_serialCallback (w : Worker) (b : Bool) : (s.withNotify w b).serialCallback = s.serialCallback := rfl
@[simp] theorem withNotify_log (w : Worker) (b : Bool) : (s.withNotify w b).log = s.log := rfl
@[simp] theorem withNotify_submitting (w : Worker) (b : Bool) : (s.withNotify w b).submitting = s.submitting := rfl
@[simp] theorem withNotify_ret (w : Worker) (b : Bool) : (s.withNotify w b).ret = s.ret := rfl
@[simp] theorem withNotify_env (w : Worker) (b : Bool) : (s.withNotify w b).env = s.env := rfl
@[simp] theorem withNotify_schedule (w : Worker) (b : Bool) : (s.withNotify w b).schedule = s.schedule := rfl

/-! ## withTxw -/

@[simp] theorem withTxw_cfg (p : TxwPhase) : (s.withTxw p).cfg = s.cfg := rfl
@[simp] theorem withTxw_outQ (p : TxwPhase) : (s.withTxw p).outQ = s.outQ := rfl
@[simp] theorem withTxw_inQ (p : TxwPhase) : (s.withTxw p).inQ = s.inQ := rfl
@[simp] theorem withTxw_dropCount (p : TxwPhase) : (s.withTxw p).dropCount = s.dropCount := rfl
@[simp] theorem withTxw_errCount (p : TxwPhase) : (s.withTxw p).errCount = s.errCount := rfl
@[simp] theorem withTxw_waiting (p : TxwPhase) : (s.withTxw p).waiting = s.waiting := rfl
@[simp] theorem withTxw_notify (p : TxwPhase) : (s.withTxw p).notify = s.notify := rfl
@[simp] theorem withTxw_txw (p : TxwPhase) : (s.withTxw p).txw = p := rfl
@[simp] theorem withTxw_rxw (p : TxwPhase) : (s.withTxw p).rxw = s.rxw := rfl
@[simp] theorem withTxw_halted (p : TxwPhase) : (s.withTxw p).halted = s.halted := rfl
@[simp] theorem withTxw_constructed (p : TxwPhase) : (s.withTxw p).constructed = s.constructed := rfl
@[simp] theorem withTxw_serialCallback (p : TxwPhase) : (s.withTxw p).serialCallback = s.serialCallback := rfl
@[simp] theorem withTxw_log (p : TxwPhase) : (s.withTxw p).log = s.log := rfl
@[simp] theorem withTxw_submitting (p : TxwPhase) : (s.withTxw p).submitting = s.submitting := rfl
@[simp] theorem withTxw_ret (p : TxwPhase) : (s.withTxw p).ret = s.ret := rfl
@[simp] theorem withTxw_env (p : TxwPhase) : (s.withTxw p).env = s.env := rfl
@[simp] theorem withTxw_schedule (p : TxwPhase) : (s.withTxw p).schedule = s.schedule := rfl

/-! ## withRxw -/

@[simp] theorem withRxw_cfg (p : RxwPhase) : (s.withRxw p).cfg = s.cfg := rfl
@[simp] theorem withRxw_outQ (p : RxwPhase) : (s.withRxw p).outQ = s.outQ := rfl
@[simp] theorem withRxw_inQ (p : RxwPhase) : (s.withRxw p).inQ = s.inQ := rfl
@[simp] theorem withRxw_dropCount (p : RxwPhase) : (s.withRxw p).dropCount = s.dropCount := rfl
@[simp] theorem withRxw_errCount (p : RxwPhase) : (s.withRxw p).errCount = s.errCount := rfl
@[simp] theorem withRxw_waiting (p : RxwPhase) : (s.withRxw p).waiting = s.waiting := rfl
@[simp] theorem withRxw_notify (p : RxwPhase) : (s.withRxw p).notify = s.notify := rfl
@[simp] theorem withRxw_txw (p : RxwPhase) : (s.withRxw p).txw = s.txw := rfl
@[simp] theorem withRxw_rxw (p : RxwPhase) : (s.withRxw p).rxw = p := rfl
@[simp] theorem withRxw_halted (p : RxwPhase) : (s.withRxw p).halted = s.halted := rfl
@[simp] theorem withRxw_constructed (p : RxwPhase) : (s.withRxw p).constructed = s.constructed := rfl
@[simp] theorem withRxw_serialCallback (p : RxwPhase) : (s.withRxw p).serialCallback = s.serialCallback := rfl
@[simp] theorem withRxw_log (p : RxwPhase) : (s.withRxw p).log = s.log := rfl
@[simp] theorem withRxw_submitting (p : RxwPhase) : (s.withRxw p).submitting = s.submitting := rfl
@[simp] theorem withRxw_ret (p : RxwPhase) : (s.withRxw p).ret = s.ret := rfl
@[simp] theorem withRxw_env (p : RxwPhase) : (s.withRxw p).env = s.env := rfl
@[simp] theorem withRxw_schedule (p : RxwPhase) : (s.withRxw p).schedule = s.schedule := rfl

/-! ## withHalted -/

@[simp] theorem withHalted_cfg (b : Bool) : (s.withHalted b).cfg = s.cfg := rfl
@[simp] theorem withHalted_outQ (b : Bool) : (s.withHalted b).outQ = s.outQ := rfl
@[simp] theorem withHalted_inQ (b : Bool) : (s.withHalted b).inQ = s.inQ := rfl
@[simp] theorem withHalted_dropCount (b : Bool) : (s.withHalted b).dropCount = s.dropCount := rfl
@[simp] theorem withHalted_errCount (b : Bool) : (s.withHalted b).errCount = s.errCount := rfl
@[simp] theorem withHalted_waiting (b : Bool) : (s.withHalted b).waiting = s.waiting := rfl
@[simp] theorem withHalted_notify (b : Bool) : (s.withHalted b).notify = s.notify := rfl
@[simp] theorem withHalted_txw (b : Bool) : (s.withHalted b).txw = s.txw := rfl
@[simp] theorem withHalted_rxw (b : Bool) : (s.withHalted b).rxw = s.rxw := rfl
@[simp] theorem withHalted_halted (b : Bool) : (s.withHalted b).halted = b := rfl
@[simp] theorem withHalted_constructed (b : Bool) : (s.withHalted b).constructed = s.constructed := rfl
@[simp] theorem withHalted_serialCallback (b : Bool) : (s.withHalted b).serialCallback = s.serialCallback := rfl
@[simp] theorem withHalted_log (b : Bool) : (s.withHalted b).log = s.log := rfl
@[simp] theorem withHalted_submitting (b : Bool) : (s.withHalted b).submitting = s.submitting := rfl
@[simp] theorem withHalted_ret (b : Bool) : (s.withHalted b).ret = s.ret := rfl
@[simp] theorem withHalted_env (b : Bool) : (s.withHalted b).env = s.env := rfl
@[simp] theorem withHalted_schedule (b : Bool) : (s.withHalted b).schedule = s.schedule := rfl

/-! ## logged -/

@[simp] theorem logged_cfg (e : LogEvent) : (s.logged e).cfg = s.cfg := rfl
@[simp] theorem logged_outQ (e : LogEvent) : (s.logged e).outQ = s.outQ := rfl
@[simp] theorem logged_inQ (e : LogEvent) : (s.logged e).inQ = s.inQ := rfl
@[simp] theorem logged_dropCount (e : LogEvent) : (s.logged e).dropCount = s.dropCount := rfl
@[simp] theorem logged_errCount (e : LogEvent) : (s.logged e).errCount = s.errCount := rfl
@[simp] theorem logged_waiting (e : LogEvent) : (s.logged e).waiting = s.waiting := rfl
@[simp] theorem logged_notify (e : LogEvent) : (s.logged e).notify = s.notify := rfl
@[simp] theorem logged_txw (e : LogEvent) : (s.logged e).txw = s.txw := rfl
@[simp] theorem logged_rxw (e : LogEvent) : (s.logged e).rxw = s.rxw := rfl
@[simp] theorem logged_halted (e : LogEvent) : (s.logged e).halted = s.halted := rfl
@[simp] theorem logged_constructed (e : LogEvent) : (s.logged e).constructed = s.constructed := rfl
@[simp] theorem logged_serialCallback (e : LogEvent) : (s.logged e).serialCallback = s.serialCallback := rfl
@[simp] theorem logged_log (e : LogEvent) : (s.logged e).log = s.log ++ [e] := rfl
@[simp] theorem logged_submitting (e : LogEvent) : (s.logged e).submitting = s.submitting := rfl
@[simp] theorem logged_ret (e : LogEvent) : (s.logged e).ret = s.ret := rfl
@[simp] theorem logged_env (e : LogEvent) : (s.logged e).env = s.env := rfl
@[simp] theorem logged_schedule (e : LogEvent) : (s.logged e).schedule = s.schedule := rfl

/-! ## withSubmitting -/

@[simp] theorem withSubmitting_cfg (l : List Frame) : (s.withSubmitting l).cfg = s.cfg := rfl
@[simp] theorem withSubmitting_outQ (l : List Frame) : (s.withSubmitting l).outQ = s.outQ := rfl
@[simp] theorem withSubmitting_inQ (l : List Frame) : (s.withSubmitting l).inQ = s.inQ := rfl
@[simp] theorem withSubmitting_dropCount (l : List Frame) : (s.withSubmitting l).dropCount = s.dropCount := rfl
@[simp] theorem withSubmitting_errCount (l : List Frame) : (s.withSubmitting l).errCount = s.errCount := rfl
@[simp] theorem withSubmitting_waiting (l : List Frame) : (s.withSubmitting l).waiting = s.waiting := rfl
@[simp] theorem withSubmitting_notify (l : List Frame) : (s.withSubmitting l).notify = s.notify := rfl
@[simp] theorem withSubmitting_txw (l : List Frame) : (s.withSubmitting l).txw = s.txw := rfl
@[simp] theorem withSubmitting_rxw (l : List Frame) : (s.withSubmitting l).rxw = s.rxw := rfl
@[simp] theorem withSubmitting_halted (l : List Frame) : (s.withSubmitting l).halted = s.halted := rfl
@[simp] theorem withSubmitting_constructed (l : List Frame) : (s.withSubmitting l).constructed = s.constructed := rfl
@[simp] theorem withSubmitting_serialCallback (l : List Frame) : (s.withSubmitting l).serialCallback = s.serialCallback := rfl
@[simp] theorem withSubmitting_log (l : List Frame) : (s.withSubmitting l).log = s.log := rfl
@[simp] theorem withSubmitting_submitting (l : List Frame) : (s.withSubmitting l).submitting = l := rfl
@[simp] theorem withSubmitting_ret (l : List Frame) : (s.withSubmitting l).ret = s.ret := rfl
@[simp] theorem withSubmitting_env (l : List Frame) : (s.withSubmitting l).env = s.env := rfl
@[simp] theorem withSubmitting_schedule (l : List Frame) : (s.withSubmitting l).schedule = s.schedule := rfl

/-! ## withRet -/

@[simp] theorem withRet_cfg (r : CallResult) : (s.withRet r).cfg = s.cfg := rfl
@[simp] theorem withRet_outQ (r : CallResult) : (s.withRet r).outQ = s.outQ := rfl
@[simp] theorem withRet_inQ (r : CallResult) : (s.withRet r).inQ = s.inQ := rfl
@[simp] theorem withRet_dropCount (r : CallResult) : (s.withRet r).dropCount = s.dropCount := rfl
@[simp] theorem withRet_errCount (r : CallResult) : (s.withRet r).errCount = s.errCount := rfl
@[simp] theorem withRet_waiting (r : CallResult) : (s.withRet r).waiting = s.waiting := rfl
@[simp] theorem withRet_notify (r : CallResult) : (s.withRet r).notify = s.notify := rfl
@[simp] theorem withRet_txw (r : CallResult) : (s.withRet r).txw = s.txw := rfl
@[simp] theorem withRet_rxw (r : CallResult) : (s.withRet r).rxw = s.rxw := rfl
@[simp] theorem withRet_halted (r : CallResult) : (s.withRet r).halted = s.halted := rfl
@[simp] theorem withRet_constructed (r : CallResult) : (s.withRet r).constructed = s.constructed := rfl
@[simp] theorem withRet_serialCallback (r : CallResult) : (s.withRet r).serialCallback = s.serialCallback := rfl
@[simp] theorem withRet_log (r : CallResult) : (s.withRet r).log = s.log := rfl
@[simp] theorem withRet_submitting (r : CallResult) : (s.withRet r).submitting = s.submitting := rfl
@[simp] theorem withRet_ret (r : CallResult) : (s.withRet r).ret = some r := rfl
@[simp] theorem withRet_env (r : CallResult) : (s.withRet r).env = s.env := rfl
@[simp] theorem withRet_schedule (r : CallResult) : (s.withRet r).schedule = s.schedule := rfl

/-! ## withTxFifo -/

@[simp] theorem withTxFifo_cfg (l : List HwEntry) : (s.withTxFifo l).cfg = s.cfg := rfl
@[simp] theorem withTxFifo_outQ (l : List HwEntry) : (s.withTxFifo l).outQ = s.outQ := rfl
@[simp] theorem withTxFifo_inQ (l : List HwEntry) : (s.withTxFifo l).inQ = s.inQ := rfl
@[simp] theorem withTxFifo_dropCount (l : List HwEntry) : (s.withTxFifo l).dropCount = s.dropCount := rfl
@[simp] theorem withTxFifo_errCount (l : List HwEntry) : (s.withTxFifo l).errCount = s.errCount := rfl
@[simp] theorem withTxFifo_waiting (l : List HwEntry) : (s.withTxFifo l).waiting = s.waiting := rfl
@[simp] theorem withTxFifo_notify (l : List HwEntry) : (s.withTxFifo l).notify = s.notify := rfl
@[simp] theorem withTxFifo_txw (l : List HwEntry) : (s.withTxFifo l).txw = s.txw := rfl
@[simp] theorem withTxFifo_rxw (l : List HwEntry) : (s.withTxFifo l).rxw = s.rxw := rfl
@[simp] theorem withTxFifo_halted (l : List HwEntry) : (s.withTxFifo l).halted = s.halted := rfl
@[simp] theorem withTxFifo_constructed (l : List HwEntry) : (s.withTxFifo l).constructed = s.constructed := rfl
@[simp] theorem withTxFifo_serialCallback (l : List HwEntry) : (s.withTxFifo l).serialCallback = s.serialCallback := rfl
@[simp] theorem withTxFifo_log (l : List HwEntry) : (s.withTxFifo l).log = s.log := rfl
@[simp] theorem withTxFifo_submitting (l : List HwEntry) : (s.withTxFifo l).submitting = s.submitting := rfl
@[simp] theorem withTxFifo_ret (l : List HwEntry) : (s.withTxFifo l).ret = s.ret := rfl
@[simp] theorem withTxFifo_env (l : List HwEntry) : (s.withTxFifo l).env = { s.env with txFifo := l } := rfl
@[simp] theorem withTxFifo_schedule (l : List HwEntry) : (s.withTxFifo l).schedule = s.schedule := rfl

/-! ## withConnected -/

@[simp] theorem withConnected_cfg (b : Bool) : (s.withConnected b).cfg = s.cfg := rfl
@[simp] theorem withConnected_outQ (b : Bool) : (s.withConnected b).outQ = s.outQ := rfl
@[simp] theorem withConnected_inQ (b : Bool) : (s.withConnected b).inQ = s.inQ := rfl
@[simp] theorem withConnected_dropCount (b : Bool) : (s.withConnected b).dropCount = s.dropCount := rfl
@[simp] theorem withConnected_errCount (b : Bool) : (s.withConnected b).errCount = s.errCount := rfl
@[simp] theorem withConnected_waiting (b : Bool) : (s.withConnected b).waiting = s.waiting := rfl
@[simp] theorem withConnected_notify (b : Bool) : (s.withConnected b).notify = s.notify := rfl
@[simp] theorem withConnected_txw (b : Bool) : (s.withConnected b).txw = s.txw := rfl
@[simp] theorem withConnected_rxw (b : Bool) : (s.withConnected b).rxw = s.rxw := rfl
@[simp] theorem withConnected_halted (b : Bool) : (s.withConnected b).halted = s.halted := rfl
@[simp] theorem withConnected_constructed (b : Bool) : (s.withConnected b).constructed = s.constructed := rfl
@[simp] theorem withConnected_serialCallback (b : Bool) : (s.withConnected b).serialCallback = s.serialCallback := rfl
@[simp] theorem withConnected_log (b : Bool) : (s.withConnected b).log = s.log := rfl
@[simp] theorem withConnected_submitting (b : Bool) : (s.withConnected b).submitting = s.submitting := rfl
@[simp] theorem withConnected_ret (b : Bool) : (s.withConnected b).ret = s.ret := rfl
@[simp] theorem withConnected_env (b : Bool) : (s.withConnected b).env = { s.env with connected := b } := rfl
@[simp] theorem withConnected_schedule (b : Bool) : (s.withConnected b).schedule = s.schedule := rfl

/-! ## withUsbOut -/

@[simp] theorem withUsbOut_cfg (l : List (List Byte)) : (s.withUsbOut l).cfg = s.cfg := rfl
@[simp] theorem withUsbOut_outQ (l : List (List Byte)) : (s.withUsbOut l).outQ = s.outQ := rfl
@[simp] theorem withUsbOut_inQ (l : List (List Byte)) : (s.withUsbOut l).inQ = s.inQ := rfl
@[simp] theorem withUsbOut_dropCount (l : List (List Byte)) : (s.withUsbOut l).dropCount = s.dropCount := rfl
@[simp] theorem withUsbOut_errCount (l : List (List Byte)) : (s.withUsbOut l).errCount = s.errCount := rfl
@[simp] theorem withUsbOut_waiting (l : List (List Byte)) : (s.withUsbOut l).waiting = s.waiting := rfl
@[simp] theorem withUsbOut_notify (l : List (List Byte)) : (s.withUsbOut l).notify = s.notify := rfl
@[simp] theorem withUsbOut_txw (l : List (List Byte)) : (s.withUsbOut l).txw = s.txw := rfl
@[simp] theorem withUsbOut_rxw (l : List (List Byte)) : (s.withUsbOut l).rxw = s.rxw := rfl
@[simp] theorem withUsbOut_halted (l : List (List Byte)) : (s.withUsbOut l).halted = s.halted := rfl
@[simp] theorem withUsbOut_constructed (l : List (List Byte)) : (s.withUsbOut l).constructed = s.constructed := rfl
@[simp] theorem withUsbOut_serialCallback (l : List (List Byte)) : (s.withUsbOut l).serialCallback = s.serialCallback := rfl
@[simp] theorem withUsbOut_log (l : List (List Byte)) : (s.withUsbOut l).log = s.log := rfl
@[simp] theorem withUsbOut_submitting (l : List (List Byte)) : (s.withUsbOut l).submitting = s.submitting := rfl
@[simp] theorem withUsbOut_ret (l : List (List Byte)) : (s.withUsbOut l).ret = s.ret := rfl
@[simp] theorem withUsbOut_env (l : List (List Byte)) : (s.withUsbOut l).env = { s.env with usbOut := l } := rfl
@[simp] theorem withUsbOut_schedule (l : List (List Byte)) : (s.withUsbOut l).schedule = s.schedule := rfl

/-! ## withSchedule -/

@[simp] theorem withSchedule_cfg (l : List Event) : (s.withSchedule l).cfg = s.cfg := rfl
@[simp] theorem withSchedule_outQ (l : List Event) : (s.withSchedule l).outQ = s.outQ := rfl
@[simp] theorem withSchedule_inQ (l : List Event) : (s.withSchedule l).inQ = s.inQ := rfl
@[simp] theorem withSchedule_dropCount (l : List Event) : (s.withSchedule l).dropCount = s.dropCount := rfl
@[simp] theorem withSchedule_errCount (l : List Event) : (s.withSchedule l).errCount = s.errCount := rfl
@[simp] theorem withSchedule_waiting (l : List Event) : (s.withSchedule l).waiting = s.waiting := rfl
@[simp] theorem withSchedule_notify (l : List Event) : (s.withSchedule l).notify = s.notify := rfl
@[simp] theorem withSchedule_txw (l : List Event) : (s.withSchedule l).txw = s.txw := rfl
@[simp] theorem withSchedule_rxw (l : List Event) : (s.withSchedule l).rxw = s.rxw := rfl
@[simp] theorem withSchedule_halted (l : List Event) : (s.withSchedule l).halted = s.halted := rfl
@[simp] theorem withSchedule_constructed (l : List Event) : (s.withSchedule l).constructed = s.constructed := rfl
@[simp] theorem withSchedule_serialCallback (l : List Event) : (s.withSchedule l).serialCallback = s.serialCallback := rfl
@[simp] theorem withSchedule_log (l : List Event) : (s.withSchedule l).log = s.log := rfl
@[simp] theorem withSchedule_submitting (l : List Event) : (s.withSchedule l).submitting = s.submitting := rfl
@[simp] theorem withSchedule_ret (l : List Event) : (s.withSchedule l).ret = s.ret := rfl
@[simp] theorem withSchedule_env (l : List Event) : (s.withSchedule l).env = s.env := rfl
@[simp] theorem withSchedule_schedule (l : List Event) : (s.withSchedule l).schedule = l := rfl

end Sys2Proof.Machine.State

namespace Sys2Proof.Machine

/-! ## restart, constructFresh -/

@[simp] theorem restart_cfg (s : State) : (restart s).cfg = s.cfg := rfl
@[simp] theorem restart_outQ (s : State) : (restart s).outQ = [] := rfl
@[simp] theorem restart_inQ (s : State) : (restart s).inQ = [] := rfl
@[simp] theorem restart_dropCount (s : State) : (restart s).dropCount = 0 := rfl
@[simp] theorem restart_errCount (s : State) : (restart s).errCount = 0 := rfl
@[simp] theorem restart_waiting (s : State) : (restart s).waiting = { rxw := false, txw := false } := rfl
@[simp] theorem restart_notify (s : State) : (restart s).notify = { rxw := false, txw := false } := rfl
@[simp] theorem restart_txw (s : State) : (restart s).txw = .idle := rfl
@[simp] theorem restart_rxw (s : State) : (restart s).rxw = .idle := rfl
@[simp] theorem restart_halted (s : State) : (restart s).halted = s.halted := rfl
@[simp] theorem restart_constructed (s : State) : (restart s).constructed = false := rfl
@[simp] theorem restart_serialCallback (s : State) : (restart s).serialCallback = false := rfl
@[simp] theorem restart_log (s : State) : (restart s).log = [] := rfl
@[simp] theorem restart_submitting (s : State) : (restart s).submitting = [] := rfl
@[simp] theorem restart_ret (s : State) : (restart s).ret = none := rfl
@[simp] theorem restart_env (s : State) : (restart s).env = s.env := rfl
@[simp] theorem restart_schedule (s : State) : (restart s).schedule = s.schedule := rfl

@[simp] theorem constructFresh_cfg (s : State) : (constructFresh s).cfg = s.cfg := rfl
@[simp] theorem constructFresh_outQ (s : State) : (constructFresh s).outQ = [] := rfl
@[simp] theorem constructFresh_inQ (s : State) : (constructFresh s).inQ = [] := rfl
@[simp] theorem constructFresh_dropCount (s : State) : (constructFresh s).dropCount = 0 := rfl
@[simp] theorem constructFresh_errCount (s : State) : (constructFresh s).errCount = 0 := rfl
@[simp] theorem constructFresh_waiting (s : State) : (constructFresh s).waiting = { rxw := false, txw := false } := rfl
@[simp] theorem constructFresh_notify (s : State) : (constructFresh s).notify = { rxw := false, txw := false } := rfl
@[simp] theorem constructFresh_txw (s : State) : (constructFresh s).txw = .idle := rfl
@[simp] theorem constructFresh_rxw (s : State) : (constructFresh s).rxw = .idle := rfl
@[simp] theorem constructFresh_halted (s : State) : (constructFresh s).halted = false := rfl
@[simp] theorem constructFresh_constructed (s : State) : (constructFresh s).constructed = true := rfl
@[simp] theorem constructFresh_serialCallback (s : State) : (constructFresh s).serialCallback = true := rfl
@[simp] theorem constructFresh_log (s : State) : (constructFresh s).log = [] := rfl
@[simp] theorem constructFresh_submitting (s : State) : (constructFresh s).submitting = [] := rfl
@[simp] theorem constructFresh_ret (s : State) : (constructFresh s).ret = some .constructed := rfl
@[simp] theorem constructFresh_env (s : State) : (constructFresh s).env = s.env := rfl
@[simp] theorem constructFresh_schedule (s : State) : (constructFresh s).schedule = s.schedule := rfl

/-! ## The per-worker flags -/

@[simp] theorem PerWorker.get_set_same (p : PerWorker) (w : Worker) (b : Bool) : (p.set w b).get w = b := by
  cases w <;> rfl

theorem PerWorker.get_set_other (p : PerWorker) (w v : Worker) (b : Bool) (h : v ≠ w) : (p.set w b).get v = p.get v := by
  cases w <;> cases v <;> first | rfl | exact absurd rfl h

@[simp] theorem PerWorker.set_rxw_rxw (p : PerWorker) (b : Bool) : (p.set .rxw b).rxw = b := rfl
@[simp] theorem PerWorker.set_rxw_txw (p : PerWorker) (b : Bool) : (p.set .rxw b).txw = p.txw := rfl
@[simp] theorem PerWorker.set_txw_rxw (p : PerWorker) (b : Bool) : (p.set .txw b).rxw = p.rxw := rfl
@[simp] theorem PerWorker.set_txw_txw (p : PerWorker) (b : Bool) : (p.set .txw b).txw = b := rfl
@[simp] theorem PerWorker.get_rxw (p : PerWorker) : p.get .rxw = p.rxw := rfl
@[simp] theorem PerWorker.get_txw (p : PerWorker) : p.get .txw = p.txw := rfl

end Sys2Proof.Machine
end

