-- ==== Sys2Proof/Laws/Ops.lean ====
section
/-! SUPPORT. What each shared operation can do, once: provers cite these and do not unfold the operation. -/

namespace Sys2Proof.Machine

/-! ## guarded, raiseFatal -/

theorem guarded_running (s : State) (run : State → Result) (h : s.running) : guarded s run = run s := by
  simp [guarded, h.1, h.2]

theorem guarded_halted (s : State) (run : State → Result) (hc : s.constructed = true) (hh : s.halted = true) :
    guarded s run = .next s := by simp [guarded, hc, hh]

theorem guarded_unconstructed (s : State) (run : State → Result) (hc : s.constructed = false) :
    guarded s run = .refused .notConstructed := by simp [guarded, hc]

/-- If a guarded step answers a next state, the block runs and the step is `run`, or it is halted and nothing moves. -/
theorem guarded_next {s t : State} {run : State → Result} (h : guarded s run = .next t) :
    (s.running ∧ run s = .next t) ∨ (s.halted = true ∧ t = s) := by
  unfold guarded at h
  split at h
  · split at h
    · rename_i hh
      exact .inr ⟨hh, by simpa using h.symm⟩
    · rename_i hc hh
      exact .inl ⟨⟨hc, by simpa using hh⟩, h⟩
  · simp at h

/-- The same for a step that is a plain function of the state. -/
theorem guarded_pure_next (f : State → State) {s t : State} (h : guarded s (fun s => .next (f s)) = .next t) :
    (s.running ∧ t = f s) ∨ (s.halted = true ∧ t = s) := by
  rcases guarded_next h with ⟨hr, h⟩ | h
  · exact .inl ⟨hr, by simpa using h.symm⟩
  · exact .inr h

theorem raiseFatal_eq (l : FatalLabel) (s : State) : raiseFatal l s = s.withHalted true := rfl

/-! ## The queues -/

theorem deliver_invalid (o : Origin) (s : State) : deliver .invalid o s = s := by simp [deliver]

theorem deliver_room (F : Frame) (o : Origin) (s : State) (hF : F ≠ .invalid) (hr : s.inQ.length < s.cfg.inQCap) :
    deliver F o s = s.withInQ (s.inQ ++ [{ frame := F, origin := o }]) := by simp [deliver, hF, hr]

theorem deliver_full (F : Frame) (o : Origin) (s : State) (hF : F ≠ .invalid) (hr : ¬ s.inQ.length < s.cfg.inQCap) :
    deliver F o s = s.withHalted true := by simp [deliver, hF, hr, raiseFatal]

/-- Deliver rejects, appends at the tail of InQ, or halts (R184). -/
theorem deliver_cases (F : Frame) (o : Origin) (s : State) :
    (F = .invalid ∧ deliver F o s = s) ∨
    (F ≠ .invalid ∧ s.inQ.length < s.cfg.inQCap ∧ deliver F o s = s.withInQ (s.inQ ++ [{ frame := F, origin := o }])) ∨
    (F ≠ .invalid ∧ ¬ s.inQ.length < s.cfg.inQCap ∧ deliver F o s = s.withHalted true) := by
  by_cases hF : F = .invalid
  · subst hF; exact .inl ⟨rfl, deliver_invalid o s⟩
  · by_cases hr : s.inQ.length < s.cfg.inQCap
    · exact .inr (.inl ⟨hF, hr, deliver_room F o s hF hr⟩)
    · exact .inr (.inr ⟨hF, hr, deliver_full F o s hF hr⟩)

/-- `submitFromISR` rejects, appends at the tail of OutQ, or halts (R182). -/
theorem submitFromIsr_cases (F : Frame) (s : State) :
    (F = .invalid ∧ submitFromIsr F s = s.withRet .rejected) ∨
    (F ≠ .invalid ∧ s.outQ.length < s.cfg.outQCap ∧ submitFromIsr F s = (s.withOutQ (s.outQ ++ [F])).withRet .accepted) ∨
    (F ≠ .invalid ∧ ¬ s.outQ.length < s.cfg.outQCap ∧ submitFromIsr F s = s.withHalted true) := by
  by_cases hF : F = .invalid
  · exact .inl ⟨hF, by simp [submitFromIsr, hF]⟩
  · by_cases hr : s.outQ.length < s.cfg.outQCap
    · exact .inr (.inl ⟨hF, hr, by simp [submitFromIsr, hF, hr]⟩)
    · exact .inr (.inr ⟨hF, hr, by simp [submitFromIsr, hF, hr, raiseFatal]⟩)

/-- Step S1 of submit rejects, or its producer goes on to S2 (R180). -/
theorem submitCall_cases (F : Frame) (s : State) :
    (F = .invalid ∧ submitCall F s = s.withRet .rejected) ∨
    (F ≠ .invalid ∧ submitCall F s = s.withSubmitting (s.submitting ++ [F])) := by
  by_cases hF : F = .invalid
  · exact .inl ⟨hF, by simp [submitCall, hF]⟩
  · exact .inr ⟨hF, by simp [submitCall, hF]⟩

/-- Step S2 of submit enqueues a waiting producer's Frame while there is room, or nothing moves (R180). -/
theorem submitEnqueue_cases (k : Nat) (s : State) :
    (∃ F, s.submitting[k]? = some F ∧ s.outQ.length < s.cfg.outQCap ∧ submitEnqueue k s =
      ((s.withOutQ (s.outQ ++ [F])).withSubmitting (s.submitting.eraseIdx k)).withRet .accepted) ∨
    ((s.submitting[k]? = none ∨ ¬ s.outQ.length < s.cfg.outQCap) ∧ submitEnqueue k s = s) := by
  cases hk : s.submitting[k]? with
  | none => exact .inr ⟨.inl rfl, by simp [submitEnqueue, hk]⟩
  | some F =>
    by_cases hr : s.outQ.length < s.cfg.outQCap
    · exact .inl ⟨F, rfl, hr, by simp [submitEnqueue, hk, hr]⟩
    · exact .inr ⟨.inr hr, by simp [submitEnqueue, hk, hr]⟩

/-! ## Construction -/

/-- `construct` builds a fresh block, reports the second construction, or is lost on a halted block (R280, R281, R251). -/
theorem construct_cases (s : State) :
    (s.constructed = false ∧ construct s = constructFresh s) ∨
    (s.constructed = true ∧ s.halted = false ∧ construct s = s.withRet .alreadyConstructed) ∨
    (s.constructed = true ∧ s.halted = true ∧ construct s = s) := by
  cases hc : s.constructed
  · exact .inl ⟨rfl, by simp [construct, hc]⟩
  · cases hh : s.halted
    · exact .inr (.inl ⟨rfl, rfl, by simp [construct, hc, hh]⟩)
    · exact .inr (.inr ⟨rfl, rfl, by simp [construct, hc, hh]⟩)

/-! ## Handlers -/

/-- `RX_ISR` halts on a broken header, else delivers a frame command's Frame (R254). -/
theorem rxIsr_cases (fifo : RxFifo) (h : RxHeader) (bytes : List Byte) (s : State) :
    (wrapRx s.cfg h bytes = none ∧ rxIsr fifo h bytes s = s.withHalted true) ∨
    (∃ F, wrapRx s.cfg h bytes = some F ∧ rxIsr fifo h bytes s = deliver F .bus s) := by
  cases hw : wrapRx s.cfg h bytes with
  | none => exact .inl ⟨rfl, by simp [rxIsr, hw, raiseFatal]⟩
  | some F => exact .inr ⟨F, rfl, by simp [rxIsr, hw]⟩

/-- Wrap answers a frame command's Frame of the header's length, or nothing (R108, R110). -/
theorem wrapRx_some {cfg : Config} {h : RxHeader} {bytes : List Byte} {F : Frame} (hw : wrapRx cfg h bytes = some F) :
    h.dataLength = bytes.length ∧ h.dataLength ≤ cfg.maxDlc ∧ F = .bus
      { cmd := tagOfFlags (extOf h.idType) (rtrOf h.rxFrameType), id := h.identifier, ext := extOf h.idType,
        rtr := rtrOf h.rxFrameType, len := h.dataLength, data := bytes } := by
  unfold wrapRx wrapFields at hw
  split at hw
  · simp at hw
  · rename_i hc
    push Not at hc
    exact ⟨hc.1, hc.2, by simpa using hw.symm⟩

/-- The wake notifies the receive worker if it waits, else the transmit worker if it waits, else nobody (R255). -/
theorem wakeOne_cases (s : State) :
    (s.waiting.rxw = true ∧ wakeOne s = (s.withWaiting .rxw false).withNotify .rxw true) ∨
    (s.waiting.rxw = false ∧ s.waiting.txw = true ∧ wakeOne s = (s.withWaiting .txw false).withNotify .txw true) ∨
    (s.waiting.rxw = false ∧ s.waiting.txw = false ∧ wakeOne s = s) := by
  cases hr : s.waiting.rxw <;> cases ht : s.waiting.txw <;> simp [wakeOne, hr, ht]

/-- `ERR_ISR` counts the error; where it trips it also counts a drop and aborts, and restarts its count under `geReset` (R256). -/
theorem errIsr_next {inflight : Option Nat} {post : BerrReading} {s t : State} (h : errIsr inflight post s = .next t) :
    (trips s.cfg.errThreshold (s.errCount + 1) post = false ∧ t = s.withErr (s.errCount + 1)) ∨
    (trips s.cfg.errThreshold (s.errCount + 1) post = true ∧ inflight.all (slotOccupied s) = true ∧
      t = errTrip inflight post (s.withErr (s.errCount + 1))) := by
  unfold errIsr at h
  split at h
  · rename_i ht
    split at h
    · rename_i ha
      exact .inr ⟨ht, ha, by simpa using h.symm⟩
    · cases h
  · rename_i ht
    exact .inl ⟨by simpa using ht, by simpa using h.symm⟩

/-- The trip in closed form. -/
theorem errTrip_eq (inflight : Option Nat) (post : BerrReading) (s : State) :
    errTrip inflight post s = ((s.withDrop (s.dropCount + 1)).withTxFifo
      (match inflight with | some k => s.env.txFifo.eraseIdx k | none => [])).withErr
        (if post = .geReset then 0 else s.errCount) := by
  unfold errTrip
  split <;> cases inflight <;> rfl

/-- A completion takes the oldest entry, and the handler runs unless the block is halted (R268). -/
theorem completeTx_next {s t : State} (h : completeTx s = .next t) :
    ∃ e rest, s.env.txFifo = e :: rest ∧
      ((s.running ∧ t = txcIsr (s.withTxFifo rest)) ∨ (s.halted = true ∧ t = s.withTxFifo rest)) := by
  unfold completeTx at h
  split at h
  · cases h
  · rename_i e rest he
    refine ⟨e, rest, he, ?_⟩
    rcases guarded_next h with ⟨hr, h⟩ | ⟨hh, h⟩
    · exact .inl ⟨hr, by simpa using h.symm⟩
    · exact .inr ⟨hh, h⟩

/-! ## What the phase writes change -/

/-- The phase writes of worker `w` change its phase only. -/
theorem setBus_rxw_phase (F : Frame) (p : BusPhase) (s : State) : setBus .rxw F p s = s.withRxw (.bus F p) := rfl
theorem setBus_txw_phase (F : Frame) (p : BusPhase) (s : State) : setBus .txw F p s = s.withTxw (.bus F p) := rfl
theorem setUsb_rxw_phase (F : Frame) (p : UsbPhase) (s : State) : setUsb .rxw F p s = s.withRxw (.usb F p) := rfl
theorem setUsb_txw_phase (F : Frame) (p : UsbPhase) (s : State) : setUsb .txw F p s = s.withTxw (.usb F p) := rfl
theorem exitBus_rxw_phase (F : Frame) (s : State) : exitBus .rxw F s = s.withRxw .idle := rfl
theorem exitBus_txw_phase (F : Frame) (s : State) : exitBus .txw F s = s.withTxw (.usb F .us1) := rfl
theorem exitUsb_rxw_phase (F : Frame) (s : State) : exitUsb .rxw F s = s.withRxw (.rst F) := rfl
theorem exitUsb_txw_phase (F : Frame) (s : State) : exitUsb .txw F s = s.withTxw .idle := rfl

/-- What one step of the flow-control machine does to a next state (R207 to R215): the branch taken, with its guard. -/
theorem busStep_next {w : Worker} {F : Frame} {p : BusPhase} {a : Answers} {s t : State} (h : busStep w F p a s = .next t) :
    (p = .bs1 ∧ breakerOpen s = true ∧ t = setBus w F (.bs1b s.dropCount) s) ∨
    (p = .bs1 ∧ breakerOpen s = false ∧ t = setBus w F .bs2 s) ∨
    (∃ d, p = .bs1b d ∧ t = exitBus w F (s.withDrop ((if s.cfg.atomicCounters then s.dropCount else d) + 1))) ∨
    (p = .bs2 ∧ toTxHeader F = none ∧ t = exitBus w F (s.logged (.hdrConvFail (cmdOf F)))) ∨
    (∃ hd, p = .bs2 ∧ toTxHeader F = some hd ∧ t = setBus w F (.bs3 hd) s) ∨
    (∃ hd, p = .bs3 hd ∧ hwFree s = 0 ∧ t = setBus w F (.bs4 hd) s) ∨
    (∃ hd, p = .bs3 hd ∧ hwFree s ≠ 0 ∧ t = setBus w F (.bs6 hd) s) ∨
    (∃ hd, p = .bs4 hd ∧ t = setBus w F (.bs5 hd) (s.withWaiting w true)) ∨
    (∃ hd, p = .bs5 hd ∧ s.notify.get w = true ∧ t = setBus w F (.bs6 hd) (s.withNotify w false)) ∨
    (∃ hd, p = .bs5 hd ∧ s.notify.get w = false ∧ t = setBus w F .bs5b s) ∨
    (p = .bs5b ∧ s.cfg.atomicCounters = true ∧ t = exitBus w F (s.withDrop (s.dropCount + 1))) ∨
    (p = .bs5b ∧ s.cfg.atomicCounters = false ∧ t = setBus w F (.bs5c s.dropCount) s) ∨
    (∃ d, p = .bs5c d ∧ t = exitBus w F (s.withDrop (d + 1))) ∨
    (∃ hd, p = .bs6 hd ∧ hwFree s ≠ 0 ∧ t = exitBus w F (hwSubmit hd (framePayload F) s)) ∨
    (∃ hd, p = .bs6 hd ∧ hwFree s = 0 ∧ s.cfg.submitFullPolicy = .environment ∧ a.fit s.cfg ∧
      t = exitBus w F (s.withTxFifo a.fullFifo)) := by
  cases p with
  | bs1 => cases hb : breakerOpen s <;> simp_all [busStep, stepBs1]
  | bs1b d => simp_all [busStep, stepBs1b]
  | bs2 => cases hh : toTxHeader F <;> simp_all [busStep, stepBs2]
  | bs3 hd => by_cases hf : hwFree s = 0 <;> simp_all [busStep, stepBs3]
  | bs4 hd => simp_all [busStep, stepBs4]
  | bs5 hd => cases hn : s.notify.get w <;> simp_all [busStep, stepBs5]
  | bs5b => cases ha : s.cfg.atomicCounters <;> simp_all [busStep, stepBs5b]
  | bs5c d => simp_all [busStep, stepBs5c]
  | bs6 hd =>
    by_cases hf : hwFree s = 0
    · cases hp : s.cfg.submitFullPolicy with
      | unset => simp [busStep, stepBs6, hf, hp] at h
      | environment =>
        by_cases hl : a.fullFifo.length ≤ s.cfg.txFifoDepth
        · simp_all [busStep, stepBs6, Answers.fit]
        · simp [busStep, stepBs6, hf, hp, hl] at h
    · simp_all [busStep, stepBs6]

/-- What one attempt to hand a line over does (R221, R223): the transport takes it, a retry is left, or the Frame is dropped, with the
warning or, held back by the rate limiter, without. -/
theorem usbAttempt_cases (w : Worker) (F : Frame) (bytes : List Byte) (left : Nat) (a : Answers) (s : State) :
    (a.usbAccepts = true ∧ usbAttempt w F bytes left a s = exitUsb w F (usbQueue bytes s)) ∨
    (∃ r, a.usbAccepts = false ∧ left = r + 1 ∧ usbAttempt w F bytes left a s = setUsb w F (.us3 bytes r) s) ∨
    (a.usbAccepts = false ∧ left = 0 ∧ a.warnPasses = true ∧
      usbAttempt w F bytes left a s = exitUsb w F (s.logged (.usbBusy bytes.dropLast))) ∨
    (a.usbAccepts = false ∧ left = 0 ∧ a.warnPasses = false ∧ usbAttempt w F bytes left a s = exitUsb w F s) := by
  cases ha : a.usbAccepts
  · cases left with
    | zero => cases hw : a.warnPasses <;> simp [usbAttempt, ha, hw]
    | succ r => simp [usbAttempt, ha]
  · simp [usbAttempt, ha]

/-- What one step of USB forwarding does to a next state (R220 to R224); the attempts' own cases are `usbAttempt_cases`. -/
theorem usbStep_next {w : Worker} {F : Frame} {p : UsbPhase} {a : Answers} {s t : State} (h : usbStep w F p a s = .next t) :
    (p = .us1 ∧ s.env.connected = false ∧ t = exitUsb w F s) ∨
    (∃ bytes, p = .us1 ∧ s.env.connected = true ∧ encodeCap s.cfg F s.cfg.usbBufSize = .written bytes ∧
      t = setUsb w F (.us2 bytes) s) ∨
    (∃ bytes, p = .us2 bytes ∧ t = usbAttempt w F bytes s.cfg.usbRetries a s) ∨
    (∃ bytes left, p = .us3 bytes left ∧ t = setUsb w F (.us4 bytes left) s) ∨
    (∃ bytes left, p = .us4 bytes left ∧ t = usbAttempt w F bytes left a s) := by
  cases p with
  | us1 =>
    cases hc : s.env.connected with
    | false => simp_all [usbStep, stepUs1]
    | true =>
      cases he : encodeCap s.cfg F s.cfg.usbBufSize with
      | written bytes => simp_all [usbStep, stepUs1]
      | bufTooSmall => simp [usbStep, stepUs1, hc, he] at h
      | refused => simp [usbStep, stepUs1, hc, he] at h
  | us2 bytes => simp_all [usbStep, stepUs2]
  | us3 bytes left => simp_all [usbStep, stepUs3]
  | us4 bytes left => simp_all [usbStep, stepUs4]

/-- What one step of the transmit worker does to a next state (R201, R202). -/
theorem txwStep_next {a : Answers} {s t : State} (h : txwStep a s = .next t) :
    (s.txw = .idle ∧ s.outQ = [] ∧ t = s) ∨
    (∃ F rest, s.txw = .idle ∧ s.outQ = F :: rest ∧ t = (s.withOutQ rest).withTxw (.got F)) ∨
    (∃ F, s.txw = .got F ∧ transmittable F = true ∧ t = s.withTxw (.bus F .bs1)) ∨
    (∃ F, s.txw = .got F ∧ transmittable F = false ∧ t = s.withTxw .idle) ∨
    (∃ F p, s.txw = .bus F p ∧ busStep .txw F p a s = .next t) ∨
    (∃ F p, s.txw = .usb F p ∧ usbStep .txw F p a s = .next t) := by
  cases hp : s.txw with
  | idle => cases hq : s.outQ <;> simp_all [txwStep, txwIdle]
  | got F => cases ht : transmittable F <;> simp_all [txwStep, txwGot]
  | bus F p => simp_all [txwStep]
  | usb F p => simp_all [txwStep]

/-- What one step of the receive worker does to a next state (R203 to R205). -/
theorem rxwStep_next {a : Answers} {s t : State} (h : rxwStep a s = .next t) :
    (s.rxw = .idle ∧ s.inQ = [] ∧ t = s) ∨
    (∃ x rest, s.rxw = .idle ∧ s.inQ = x :: rest ∧ t = (s.withInQ rest).withRxw (.got x)) ∨
    (∃ x, s.rxw = .got x ∧ transmittable x.frame = true ∧ x.origin = .serial ∧ t = s.withRxw (.bus x.frame .bs1)) ∨
    (∃ x, s.rxw = .got x ∧ transmittable x.frame = true ∧ x.origin = .bus ∧ t = s.withRxw (.usb x.frame .us1)) ∨
    (∃ x, s.rxw = .got x ∧ transmittable x.frame = false ∧ t = s.withRxw .idle) ∨
    (∃ F p, s.rxw = .bus F p ∧ busStep .rxw F p a s = .next t) ∨
    (∃ F p, s.rxw = .usb F p ∧ usbStep .rxw F p a s = .next t) ∨
    (∃ F, s.rxw = .rst F ∧ t = ((s.logged (.dropReport s.dropCount)).withDrop 0).withRxw .idle) := by
  cases hp : s.rxw with
  | idle => cases hq : s.inQ <;> simp_all [rxwStep, rxwIdle]
  | got x => cases ht : transmittable x.frame <;> cases ho : x.origin <;> simp_all [rxwStep, rxwGot]
  | bus F p => simp_all [rxwStep]
  | usb F p => simp_all [rxwStep]
  | rst F => simp_all [rxwStep, rxwRst]

end Sys2Proof.Machine
end

