-- ==== Sys2Proof/Laws/PerInstr.lean ====
section
/-! SUPPORT. One family of statements made per instruction: the line of an instruction ends in the terminator (R70, R119:
"terminates every encoding with a line terminator"). -/

namespace Sys2Proof.Laws.EndsInTerminator

/-- Where an instruction has a line, its last byte is the terminator. -/
def Statement (i : Instr) : Prop :=
  ∀ (cfg : Config) (line : List Byte), encode cfg i = some line → line.getLast? = some cfg.terminator

/-- What encode writes for any Frame ends in the terminator. -/
theorem of_frame (cfg : Config) (F : Frame) (line : List Byte) (h : encodeFrame cfg F = some line) :
    line.getLast? = some cfg.terminator := by
  cases F with
  | bus f =>
    by_cases he : f.wf cfg = true
    · simp only [encodeFrame, he, if_true, Option.some.injEq] at h
      rw [← h]
      exact List.getLast?_concat
    · simp [encodeFrame, he] at h
  | value c v =>
    simp only [encodeFrame, Option.map_eq_some_iff] at h
    obtain ⟨b, -, rfl⟩ := h
    rfl
  | plain c =>
    injection h with h
    subst h
    rfl
  | invalid => cases h

theorem stdData (id : CanId) (len : Nat) (data : List Byte) : Statement (.stdData id len data) := fun cfg => of_frame cfg _
theorem extData (id : CanId) (len : Nat) (data : List Byte) : Statement (.extData id len data) := fun cfg => of_frame cfg _
theorem stdRemote (id : CanId) : Statement (.stdRemote id) := fun cfg => of_frame cfg _
theorem extRemote (id : CanId) : Statement (.extRemote id) := fun cfg => of_frame cfg _
theorem setBitrate (v : Nat) : Statement (.setBitrate v) := fun cfg => of_frame cfg _
theorem setMode (v : Nat) : Statement (.setMode v) := fun cfg => of_frame cfg _
theorem setAutoRetry (v : Nat) : Statement (.setAutoRetry v) := fun cfg => of_frame cfg _
theorem openChannel : Statement .openChannel := fun cfg => of_frame cfg _
theorem closeChannel : Statement .closeChannel := fun cfg => of_frame cfg _
theorem getVersion : Statement .getVersion := fun cfg => of_frame cfg _
theorem reportError : Statement .reportError := fun cfg => of_frame cfg _
theorem invalid (e : DecodeError) : Statement (.invalid e) := fun cfg => of_frame cfg _

end Sys2Proof.Laws.EndsInTerminator
end

