-- ==== Sys2Proof/Laws/Step.lean ====
section
/-! SUPPORT. What exec, a move of the schedule and a step can do, once. -/

namespace Sys2Proof.Machine

/-- A command other than Invalid is the delivery of its Frame (R186). -/
theorem exec_command (i : Instr) (s : State) (hi : ∀ e, i ≠ .invalid e) : exec i s = serialDeliver i.frame s := by
  cases i with
  | invalid e => exact absurd rfl (hi e)
  | stdData id len data => rfl
  | extData id len data => rfl
  | stdRemote id => rfl
  | extRemote id => rfl
  | setBitrate v => rfl
  | setMode v => rfl
  | setAutoRetry v => rfl
  | openChannel => rfl
  | closeChannel => rfl
  | getVersion => rfl
  | reportError => rfl

/-- The Frame of a command other than Invalid is not Invalid (R12). -/
theorem frame_ne_invalid (i : Instr) (hi : ∀ e, i ≠ .invalid e) : i.frame ≠ .invalid := by
  cases i with
  | invalid e => exact absurd rfl (hi e)
  | stdData id len data => simp [Instr.frame]
  | extData id len data => simp [Instr.frame]
  | stdRemote id => simp [Instr.frame]
  | extRemote id => simp [Instr.frame]
  | setBitrate v => simp [Instr.frame]
  | setMode v => simp [Instr.frame]
  | setAutoRetry v => simp [Instr.frame]
  | openChannel => simp [Instr.frame]
  | closeChannel => simp [Instr.frame]
  | getVersion => simp [Instr.frame]
  | reportError => simp [Instr.frame]

/-- What exec does to a next state: log and reject, deliver, or nothing on a halted block. -/
theorem exec_next {i : Instr} {s t : State} (h : exec i s = .next t) :
    (∃ e, s.running ∧ i = .invalid e ∧ t = s.logged (.decodeError e)) ∨
    (s.running ∧ (∀ e, i ≠ .invalid e) ∧ t = deliver i.frame .serial s) ∨
    (s.halted = true ∧ t = s) := by
  by_cases hi : ∃ e, i = .invalid e
  · obtain ⟨e, rfl⟩ := hi
    rcases guarded_pure_next (fun s => deliver .invalid .serial (s.logged (.decodeError e))) h with ⟨hr, h⟩ | ⟨hh, h⟩
    · exact .inl ⟨e, hr, rfl, by simpa [deliver_invalid] using h⟩
    · exact .inr (.inr ⟨hh, h⟩)
  · have hi : ∀ e, i ≠ .invalid e := fun e he => hi ⟨e, he⟩
    rw [exec_command i s hi] at h
    rcases guarded_pure_next (deliver i.frame .serial) h with ⟨hr, h⟩ | ⟨hh, h⟩
    · exact .inr (.inl ⟨hr, hi, h⟩)
    · exact .inr (.inr ⟨hh, h⟩)

/-- What a move other than a serial line does to a next state. -/
theorem runEvent_next {e : Event} {s t : State} (h : runEvent e s = .next t) :
    (∃ buf, e = .serLine buf ∧ t = s) ∨
    (∃ fifo hd bytes, e = .rxFrame fifo hd bytes ∧ s.running ∧ t = rxIsr fifo hd bytes s) ∨
    (e = .txComplete ∧ completeTx s = .next t) ∨
    (∃ v sel post, e = .busError v sel post ∧ s.running ∧ errIsr sel (berrReading s.cfg post) s = .next t) ∨
    (∃ b, e = .setConnected b ∧ t = s.withConnected b) ∨
    (e = .tick ∧ t = s) ∨
    (∃ a, e = .txwStep a ∧ s.running ∧ txwStep a s = .next t) ∨
    (∃ a, e = .rxwStep a ∧ s.running ∧ rxwStep a s = .next t) ∨
    (∃ F, e = .submitCall F ∧ s.running ∧ t = submitCall F s) ∨
    (∃ k, e = .submitEnqueue k ∧ s.running ∧ t = submitEnqueue k s) ∨
    (∃ F, e = .submitIsr F ∧ s.running ∧ t = submitFromIsr F s) ∨
    (e = .construct ∧ t = construct s) ∨
    (e = .restart ∧ t = restart s) ∨
    (s.halted = true ∧ t = s) := by
  cases e with
  | serLine buf => exact .inl ⟨buf, rfl, by simpa [runEvent] using h.symm⟩
  | rxFrame fifo hd bytes =>
    rcases guarded_pure_next (rxIsr fifo hd bytes) h with ⟨hr, h⟩ | h
    · simp [hr, h]
    · simp [h]
  | txComplete => exact .inr (.inr (.inl ⟨rfl, h⟩))
  | busError v sel post =>
    rcases guarded_next h with ⟨hr, h⟩ | h
    · simp [hr, h]
    · simp [h]
  | setConnected b => simp_all [runEvent]
  | tick => simp_all [runEvent]
  | txwStep a =>
    rcases guarded_next h with ⟨hr, h⟩ | h
    · simp [hr, h]
    · simp [h]
  | rxwStep a =>
    rcases guarded_next h with ⟨hr, h⟩ | h
    · simp [hr, h]
    · simp [h]
  | submitCall F =>
    rcases guarded_pure_next (submitCall F) h with ⟨hr, h⟩ | h
    · simp [hr, h]
    · simp [h]
  | submitEnqueue k =>
    rcases guarded_pure_next (submitEnqueue k) h with ⟨hr, h⟩ | h
    · simp [hr, h]
    · simp [h]
  | submitIsr F =>
    rcases guarded_pure_next (submitFromIsr F) h with ⟨hr, h⟩ | h
    · simp [hr, h]
    · simp [h]
  | construct => simp_all [runEvent]
  | restart => simp_all [runEvent]

/-- What a step does to a next state: nothing is scheduled; a serial line is decoded and executed; a serial line is lost on a
halted block; or another move is made. -/
theorem step_next {s t : State} (h : step s = .next t) :
    (s.schedule = [] ∧ t = s) ∨
    (∃ buf rest i, s.schedule = .serLine buf :: rest ∧ s.running ∧ s.serialCallback = true ∧ buf.length ≤ s.cfg.maxLine ∧
      decode s.cfg buf = .instr i ∧ exec i (s.withSchedule rest) = .next t) ∨
    (∃ buf rest, s.schedule = .serLine buf :: rest ∧ s.halted = true ∧ t = s.withSchedule rest) ∨
    (∃ e rest, s.schedule = e :: rest ∧ (∀ buf, e ≠ .serLine buf) ∧ runEvent e (s.withSchedule rest) = .next t) := by
  cases hs : s.schedule with
  | nil => exact .inl ⟨rfl, by simpa [step, fetch, hs] using h.symm⟩
  | cons e rest =>
    by_cases he : ∃ buf, e = .serLine buf
    · obtain ⟨buf, rfl⟩ := he
      have hf : fetch s = fetchLine buf (s.withSchedule rest) := by simp [fetch, hs]
      unfold step at h
      rw [hf] at h
      unfold fetchLine at h
      by_cases hc : s.constructed = true ∧ s.serialCallback = true
      · cases hh : s.halted
        · by_cases hl : s.cfg.maxLine < buf.length
          · simp [hc.1, hc.2, hh, hl] at h
          · cases hd : decode s.cfg buf with
            | refuse r => simp [hc.1, hc.2, hh, hl, hd] at h
            | instr i =>
              refine .inr (.inl ⟨buf, rest, i, rfl, ⟨hc.1, hh⟩, hc.2, by omega, hd, ?_⟩)
              simpa [hc.1, hc.2, hh, hl, hd] using h
        · exact .inr (.inr (.inl ⟨buf, rest, rfl, rfl, by simpa [hc.1, hc.2, hh] using h.symm⟩))
      · simp [hc] at h
    · have he : ∀ buf, e ≠ .serLine buf := fun buf hb => he ⟨buf, hb⟩
      refine .inr (.inr (.inr ⟨e, rest, rfl, he, ?_⟩))
      cases e with
      | serLine buf => exact absurd rfl (he buf)
      | rxFrame fifo hd bytes => simpa [step, fetch, hs] using h
      | txComplete => simpa [step, fetch, hs] using h
      | busError v sel post => simpa [step, fetch, hs] using h
      | setConnected b => simpa [step, fetch, hs] using h
      | tick => simpa [step, fetch, hs] using h
      | txwStep a => simpa [step, fetch, hs] using h
      | rxwStep a => simpa [step, fetch, hs] using h
      | submitCall F => simpa [step, fetch, hs] using h
      | submitEnqueue k => simpa [step, fetch, hs] using h
      | submitIsr F => simpa [step, fetch, hs] using h
      | construct => simpa [step, fetch, hs] using h
      | restart => simpa [step, fetch, hs] using h

/-- A step whose next move is no serial line makes that move. -/
theorem step_move {s : State} {e : Event} {rest : List Event} (hs : s.schedule = e :: rest) (he : ∀ buf, e ≠ .serLine buf) :
    step s = runEvent e (s.withSchedule rest) := by
  cases e with
  | serLine buf => exact absurd rfl (he buf)
  | rxFrame fifo hd bytes => simp [step, fetch, hs]
  | txComplete => simp [step, fetch, hs]
  | busError v sel post => simp [step, fetch, hs]
  | setConnected b => simp [step, fetch, hs]
  | tick => simp [step, fetch, hs]
  | txwStep a => simp [step, fetch, hs]
  | rxwStep a => simp [step, fetch, hs]
  | submitCall F => simp [step, fetch, hs]
  | submitEnqueue k => simp [step, fetch, hs]
  | submitIsr F => simp [step, fetch, hs]
  | construct => simp [step, fetch, hs]
  | restart => simp [step, fetch, hs]

/-- A step of worker `w` in a phase of the flow-control machine is `busStep`. -/
theorem step_setBus (s : State) (w : Worker) (F : Frame) (p : BusPhase) (a : Answers) (rest : List Event) (hr : s.running) :
    step (setBus w F p (s.withSchedule (workerStep w a :: rest))) = busStep w F p a (setBus w F p (s.withSchedule rest)) := by
  cases w
  · rw [step_move (e := .txwStep a) (rest := rest) rfl (by simp)]
    exact guarded_running _ _ hr
  · rw [step_move (e := .rxwStep a) (rest := rest) rfl (by simp)]
    exact guarded_running _ _ hr

/-- A step of worker `w` in a phase of USB forwarding is `usbStep`. -/
theorem step_setUsb (s : State) (w : Worker) (F : Frame) (p : UsbPhase) (a : Answers) (rest : List Event) (hr : s.running) :
    step (setUsb w F p (s.withSchedule (workerStep w a :: rest))) = usbStep w F p a (setUsb w F p (s.withSchedule rest)) := by
  cases w
  · rw [step_move (e := .txwStep a) (rest := rest) rfl (by simp)]
    exact guarded_running _ _ hr
  · rw [step_move (e := .rxwStep a) (rest := rest) rfl (by simp)]
    exact guarded_running _ _ hr

end Sys2Proof.Machine
end

