-- ==== Sys2Proof/Tests/Slice0.lean ====
section
/-! SUPPORT. Tests. Expected values are those of spec/95_test_vectors.md (the vector group is named beside each) or hand-made from the
rule named; lines are written out byte by byte from spec/30_encoding.md. The second half holds, for every statement with hypotheses, a
concrete witness that meets them. -/

namespace Sys2Proof.Tests

open Sys2Proof.Machine

/-! ## Helpers -/

/-- The state of reset with moves to come. -/
def idleWith (moves : List Event) : State := { State.reset with schedule := moves }

/-- The next state of a step, if there is one. -/
def nextOf : Result → Option State
  | .next s => some s
  | .fault _ => none
  | .refused _ => none

/-- Why a step was refused, if it was. -/
def refusalOf : Result → Option Refusal
  | .next _ => none
  | .fault _ => none
  | .refused r => some r

/-- The answers of an environment that takes lines and passes warnings. -/
def yes : Answers := { usbAccepts := true, warnPasses := true, fullFifo := [] }

/-- The answers of a transport without room; the warning passes. -/
def busy : Answers := { usbAccepts := false, warnPasses := true, fullFifo := [] }

/-- Both open policies read as `invalid`. -/
def strict : Config := { Config.default with excessPolicy := .set .invalid, idRangePolicy := .set .invalid }

/-- Excess digits ignored, identifiers masked. -/
def lenient : Config := { Config.default with excessPolicy := .set .ignore, idRangePolicy := .set .mask }

/-- Both open policies unset. -/
def unsetCfg : Config := { Config.default with excessPolicy := .unset, idRangePolicy := .unset }

/-- `StdData(id=0x123, len=2, data=DE AD)`. -/
def frame1 : BusFrame := { cmd := .stdData, id := 0x123, ext := false, rtr := false, len := 2, data := [0xDE, 0xAD] }

/-- Its transmit header (V-X). -/
def header1 : TxHeader :=
  { identifier := 0x123, idType := .standard, txFrameType := .data, dataLength := 2, fdFormat := .classic, bitRateSwitch := .off,
    errorStateIndicator := .active }

/-- Its receive header (V-W1). -/
def rxHeader1 : RxHeader :=
  { identifier := 0x123, idType := .standard, rxFrameType := .data, dataLength := 2, fdFormat := .classic, bitRateSwitch := .off,
    errorStateIndicator := .active }

/-- An entry of the hardware FIFO. -/
def entry1 : HwEntry := { header := header1, bytes := [0xDE, 0xAD] }

/-- Its line, `t1232DEAD\r` (S2). -/
def line1 : List Byte := [0x74, 0x31, 0x32, 0x33, 0x32, 0x44, 0x45, 0x41, 0x44, 0x0D]

/-- An environment with this hardware FIFO. -/
def envFifo (l : List HwEntry) : Env := { txFifo := l, connected := true, usbOut := [] }

/-- A command delivered from a serial line. -/
def fromSerial (F : Frame) : Tagged := { frame := F, origin := .serial }

/-! ## WellFormed: one ill-formed term per check, and the boundaries (R13, R160, R169) -/

theorem test_wf_refuses_std_id_above_0x7FF : Instr.wf Config.default (.stdData 0x800 0 []) = false := by decide

theorem test_wf_refuses_std_remote_id_above_0x7FF : Instr.wf Config.default (.stdRemote 0x800) = false := by decide

theorem test_wf_refuses_ext_id_above_29_bits : Instr.wf Config.default (.extData 0x20000000 0 []) = false := by decide

theorem test_wf_refuses_ext_remote_id_above_29_bits : Instr.wf Config.default (.extRemote 0x20000000) = false := by decide

theorem test_wf_refuses_length_above_8 : Instr.wf Config.default (.stdData 0x123 9 [1, 2, 3, 4, 5, 6, 7, 8, 9]) = false := by decide

theorem test_wf_refuses_length_not_of_the_bytes : Instr.wf Config.default (.extData 0x123 2 [1]) = false := by decide

theorem test_wf_refuses_bitrate_outside_table : Instr.wf Config.default (.setBitrate 9) = false := by decide

theorem test_wf_refuses_mode_outside_table : Instr.wf Config.default (.setMode 2) = false := by decide

theorem test_wf_refuses_auto_retry_outside_table : Instr.wf Config.default (.setAutoRetry 2) = false := by decide

theorem test_wf_refuses_invalid : Instr.wf Config.default (.invalid (.badCmd 0x78)) = false := by decide

theorem test_wf_accepts_boundaries :
    Instr.wf Config.default (.stdData 0x7FF 8 [1, 2, 3, 4, 5, 6, 7, 8]) = true ∧ Instr.wf Config.default (.extRemote 0x1FFFFFFF) = true ∧
    Instr.wf Config.default (.setBitrate 8) = true := by decide

/-- The constraints on the parameters: the suggested command bytes and tables meet them; two equal command bytes, CR as a command byte,
an output buffer below 27, a hex digit as the terminator, a MAX_DLC of two digits and a maximum beyond its digits do not (R78, R43, R70, R81,
R80). -/
theorem test_config_constraints :
    Config.default.wf = true ∧
    ({ Config.default with cmdChars := { Config.default.cmdChars with openChannel := 0x74 } } : Config).wf = false ∧
    ({ Config.default with cmdChars := { Config.default.cmdChars with openChannel := 0x0D } } : Config).wf = false ∧
    ({ Config.default with usbBufSize := 26 } : Config).wf = false ∧ ({ Config.default with terminator := 0x41 } : Config).wf = false ∧
    ({ Config.default with maxDlc := 16 } : Config).wf = false ∧ ({ Config.default with stdIdMax := 0x1000 } : Config).wf = false := by decide

/-! ## Decode: every constructor by a line written out (V-D, V-C, V-E) -/

/-- `t1238AABBCCDD01234567\r`. -/
theorem test_decode_t_scenario_A : decode Config.default
    [0x74, 0x31, 0x32, 0x33, 0x38, 0x41, 0x41, 0x42, 0x42, 0x43, 0x43, 0x44, 0x44, 0x30, 0x31, 0x32, 0x33, 0x34, 0x35, 0x36, 0x37, 0x0D] = .instr (.stdData 0x123 8 [0xAA, 0xBB, 0xCC, 0xDD, 0x01, 0x23, 0x45, 0x67]) := by decide

/-- `t1232aBcD`. -/
theorem test_decode_t_lower_case_no_cr : decode Config.default
    [0x74, 0x31, 0x32, 0x33, 0x32, 0x61, 0x42, 0x63, 0x44] = .instr (.stdData 0x123 2 [0xAB, 0xCD]) := by decide

/-- `T1ABCDEF03112233\r`. -/
theorem test_decode_T : decode Config.default
    [0x54, 0x31, 0x41, 0x42, 0x43, 0x44, 0x45, 0x46, 0x30, 0x33, 0x31, 0x31, 0x32, 0x32, 0x33, 0x33, 0x0D] = .instr (.extData 0x1ABCDEF0 3 [0x11, 0x22, 0x33]) := by decide

/-- `T1FFFFFFF81122334455667788\r`. -/
theorem test_decode_T_longest : decode Config.default
    [0x54, 0x31, 0x46, 0x46, 0x46, 0x46, 0x46, 0x46, 0x46, 0x38, 0x31, 0x31, 0x32, 0x32, 0x33, 0x33, 0x34, 0x34, 0x35, 0x35, 0x36, 0x36, 0x37, 0x37, 0x38, 0x38, 0x0D] = .instr (.extData 0x1FFFFFFF 8 [0x11, 0x22, 0x33, 0x44, 0x55, 0x66, 0x77, 0x88]) := by decide

/-- `r123\r`. -/
theorem test_decode_r : decode Config.default
    [0x72, 0x31, 0x32, 0x33, 0x0D] = .instr (.stdRemote 0x123) := by decide

/-- `r7FF`. -/
theorem test_decode_r_no_cr : decode Config.default
    [0x72, 0x37, 0x46, 0x46] = .instr (.stdRemote 0x7FF) := by decide

/-- `R1abcdef0`. -/
theorem test_decode_R : decode Config.default
    [0x52, 0x31, 0x61, 0x62, 0x63, 0x64, 0x65, 0x66, 0x30] = .instr (.extRemote 0x1ABCDEF0) := by decide

/-- `S6\r`. -/
theorem test_decode_S : decode Config.default
    [0x53, 0x36, 0x0D] = .instr (.setBitrate 6) := by decide

/-- `M1\r`. -/
theorem test_decode_M : decode Config.default
    [0x4D, 0x31, 0x0D] = .instr (.setMode 1) := by decide

/-- `A1`. -/
theorem test_decode_A : decode Config.default
    [0x41, 0x31] = .instr (.setAutoRetry 1) := by decide

/-- `O\r`. -/
theorem test_decode_O : decode Config.default
    [0x4F, 0x0D] = .instr (.openChannel) := by decide

/-- `C\r`. -/
theorem test_decode_C : decode Config.default
    [0x43, 0x0D] = .instr (.closeChannel) := by decide

/-- `V\r`. -/
theorem test_decode_V : decode Config.default
    [0x56, 0x0D] = .instr (.getVersion) := by decide

/-- `E\r`. -/
theorem test_decode_E : decode Config.default
    [0x45, 0x0D] = .instr (.reportError) := by decide

/-- `x123\r` (V-E). -/
theorem test_invalid_badcmd : decode Config.default [0x78, 0x31, 0x32, 0x33, 0x0D] = .instr (.invalid (.badCmd 0x78)) := by decide

/-- `\r\r` (V-E). -/
theorem test_invalid_badcmd_cr : decode Config.default [0x0D, 0x0D] = .instr (.invalid (.badCmd 0x0D)) := by decide

/-- `t1G\r` (V-E). -/
theorem test_invalid_badchar_before_short_id : decode Config.default [0x74, 0x31, 0x47, 0x0D] = .instr (.invalid (.badChar 2 0x47)) := by decide

/-- `t123\r\r` (V-E). -/
theorem test_invalid_badchar_second_cr : decode Config.default [0x74, 0x31, 0x32, 0x33, 0x0D, 0x0D] = .instr (.invalid (.badChar 4 0x0D)) := by decide

/-- `t1230\r\n` (V-E). -/
theorem test_invalid_badchar_lf : decode Config.default [0x74, 0x31, 0x32, 0x33, 0x30, 0x0D, 0x0A] = .instr (.invalid (.badChar 5 0x0D)) := by decide

/-- `T1234567\r` (V-E). -/
theorem test_invalid_short_id : decode Config.default [0x54, 0x31, 0x32, 0x33, 0x34, 0x35, 0x36, 0x37, 0x0D] = .instr (.invalid (.shortId 1)) := by decide

/-- `t123\r` (V-E). -/
theorem test_invalid_short_dlc : decode Config.default [0x74, 0x31, 0x32, 0x33, 0x0D] = .instr (.invalid (.shortDlc 4)) := by decide

/-- `t1239\r` (V-E). -/
theorem test_invalid_dlc_range : decode Config.default [0x74, 0x31, 0x32, 0x33, 0x39, 0x0D] = .instr (.invalid (.dlcRange 9)) := by decide

/-- `t1232AAB\r` (V-E). -/
theorem test_invalid_short_data_odd : decode Config.default [0x74, 0x31, 0x32, 0x33, 0x32, 0x41, 0x41, 0x42, 0x0D] = .instr (.invalid (.shortData 2 3)) := by decide

/-- `S\r` (V-E). -/
theorem test_invalid_short_value : decode Config.default [0x53, 0x0D] = .instr (.invalid (.shortValue 1)) := by decide

/-- `M2\r` (V-E). -/
theorem test_invalid_badvalue : decode Config.default [0x4D, 0x32, 0x0D] = .instr (.invalid (.badValue 2)) := by decide

/-- `t1231AABB\r` under the three settings of EXCESS_POLICY (V-O). -/
theorem test_excess_policy :
    decode strict [0x74, 0x31, 0x32, 0x33, 0x31, 0x41, 0x41, 0x42, 0x42, 0x0D] = .instr (.invalid (.excess 7 9)) ∧
    decode lenient [0x74, 0x31, 0x32, 0x33, 0x31, 0x41, 0x41, 0x42, 0x42, 0x0D] = .instr (.stdData 0x123 1 [0xAA]) ∧
    decode unsetCfg [0x74, 0x31, 0x32, 0x33, 0x31, 0x41, 0x41, 0x42, 0x42, 0x0D] = .refuse .excessUnset := by decide

/-- `rABC\r` under three settings of ID_RANGE_POLICY, and `RE0000001\r` masked (V-O). -/
theorem test_id_range_policy :
    decode strict [0x72, 0x41, 0x42, 0x43, 0x0D] = .instr (.invalid (.idRange 0xABC)) ∧
    decode lenient [0x72, 0x41, 0x42, 0x43, 0x0D] = .instr (.stdRemote 0x2BC) ∧
    decode unsetCfg [0x72, 0x41, 0x42, 0x43, 0x0D] = .refuse .idRangeUnset ∧
    decode lenient [0x52, 0x45, 0x30, 0x30, 0x30, 0x30, 0x30, 0x30, 0x31, 0x0D] = .instr (.extRemote 0x00000001) := by decide

/-- A configuration whose value commands have a second spelling (R78, log 37): `s6\r` is the command, and encode emits `S6\r`. -/
theorem test_second_spelling :
    let cfg := { Config.default with cmdAliases := [(0x73, .setBitrate)] }
    decode cfg [0x73, 0x36, 0x0D] = .instr (.setBitrate 6) ∧ encode cfg (.setBitrate 6) = some [0x53, 0x36, 0x0D] ∧ cfg.wf = true ∧
    decode Config.default [0x73, 0x36, 0x0D] = .instr (.invalid (.badCmd 0x73)) := by decide

/-- A buffer of fewer than two bytes has no meaning (R41). -/
theorem test_decode_short_buffer : decode Config.default [0x4F] = .refuse .shortBuffer := by decide

/-! ## Encode, size, headers (V-D, V-S, V-W, V-X) -/

/-- Scenario A encodes to its own 22 bytes; `T1fffffff0` to upper case with CR. -/
theorem test_encode :
    encode Config.default (.stdData 0x123 8 [0xAA, 0xBB, 0xCC, 0xDD, 0x01, 0x23, 0x45, 0x67]) =
      some [0x74, 0x31, 0x32, 0x33, 0x38, 0x41, 0x41, 0x42, 0x42, 0x43, 0x43, 0x44, 0x44, 0x30, 0x31, 0x32, 0x33, 0x34, 0x35, 0x36, 0x37, 0x0D] ∧
    encode Config.default (.extData 0x1FFFFFFF 0 []) = some [0x54, 0x31, 0x46, 0x46, 0x46, 0x46, 0x46, 0x46, 0x46, 0x30, 0x0D] ∧
    encode Config.default (.setBitrate 6) = some [0x53, 0x36, 0x0D] ∧
    encode Config.default .reportError = some [0x45, 0x0D] := by decide

/-- The corner cases of the buffer size, and V-W4's remote Frame of length 2, which encodes as `r123\r`. -/
theorem test_encode_buffer :
    encodeCap Config.default (.bus (mkBusFrame .stdData 0x123 1 [0x5A])) 8 = .written [0x74, 0x31, 0x32, 0x33, 0x31, 0x35, 0x41, 0x0D] ∧
    encodeCap Config.default (.bus (mkBusFrame .stdData 0x123 1 [0x5A])) 7 = .bufTooSmall ∧
    encodeCap Config.default (.bus (mkBusFrame .stdRemote 0x123 2 [0, 0])) 27 = .written [0x72, 0x31, 0x32, 0x33, 0x0D] ∧
    outAfter [9, 9, 9, 9] [0x4F, 0x0D] = [0x4F, 0x0D, 9, 9] := by decide

/-- U9: encode of a Frame that breaks R13 has no meaning: an identifier of 12 bits, one of 30, a length of 9, and flags against the tag. -/
theorem test_encode_refuses :
    encodeCap Config.default (.bus (mkBusFrame .stdData 0x800 0 [])) 27 = .refused ∧
    encodeCap Config.default (.bus (mkBusFrame .extRemote 0x20000000 0 [])) 27 = .refused ∧
    encodeCap Config.default (.bus (mkBusFrame .stdRemote 0x123 9 [1, 2, 3, 4, 5, 6, 7, 8, 9])) 27 = .refused ∧
    encodeCap Config.default (.bus { frame1 with ext := true }) 27 = .refused := by decide

/-- The edges of the hex alphabet (R100's own examples), the values of `'a'`, `'A'` and `'7'` (R101), and `hexchar(11) = 'B'` (R102). -/
theorem test_hex_functions :
    ishex 0x66 = true ∧ ishex 0x67 = false ∧ ishex 0x40 = false ∧ ishex 0x3A = false ∧ ishex 0x2F = false ∧ ishex 0x60 = false ∧
    hexval 0x61 = 10 ∧ hexval 0x41 = 10 ∧ hexval 0x37 = 7 ∧ hexchar 11 = 0x42 := by decide

/-- V-S, the longest lines and the fixed sizes. -/
theorem test_size :
    size Config.default (.bus (mkBusFrame .stdData 0 8 [])) = some 22 ∧ size Config.default (.bus (mkBusFrame .extData 0 8 [])) = some 27 ∧
    size Config.default (.bus (mkBusFrame .stdRemote 0 0 [])) = some 5 ∧ size Config.default (.bus (mkBusFrame .extRemote 0 0 [])) = some 10 ∧
    size Config.default (.value .setMode 1) = some 3 ∧ size Config.default (.plain .getVersion) = some 2 ∧ size Config.default .invalid = none := by decide

/-- V-W1, V-W4, V-W7, V-W11, V-W13. -/
theorem test_wrap_and_constructors :
    wrapRx Config.default rxHeader1 [0xDE, 0xAD] = some (.bus frame1) ∧
    wrapRx Config.default { rxHeader1 with rxFrameType := .remote } [0, 0] = some (.bus (mkBusFrame .stdRemote 0x123 2 [0, 0])) ∧
    wrapRx Config.default { rxHeader1 with dataLength := 3 } [0xDE, 0xAD] = none ∧
    mkData Config.default 0x123 false [0xAA, 0xBB] 2 = some (Instr.stdData 0x123 2 [0xAA, 0xBB]).frame ∧
    mkRemote Config.default 0x800 false = none := by decide

/-- Scenario B, and the absent header of a control command (V-X). -/
theorem test_header :
    toTxHeader (Instr.stdRemote 0x123).frame = some { header1 with txFrameType := .remote, dataLength := 0 } ∧
    toTxHeader (.plain .openChannel) = none := by decide

/-! ## Table words -/

/-- The byte each row of spec/opcode_table.json matches decodes to the row's instruction, operands of zero. -/
theorem test_table_words :
    decodeTableWord 8 0x74 = some (.stdData 0 0 []) ∧ decodeTableWord 8 0x54 = some (.extData 0 0 []) ∧
    decodeTableWord 8 0x72 = some (.stdRemote 0) ∧ decodeTableWord 8 0x52 = some (.extRemote 0) ∧
    decodeTableWord 8 0x53 = some (.setBitrate 0) ∧ decodeTableWord 8 0x4D = some (.setMode 0) ∧
    decodeTableWord 8 0x41 = some (.setAutoRetry 0) ∧ decodeTableWord 8 0x4F = some .openChannel ∧
    decodeTableWord 8 0x43 = some .closeChannel ∧ decodeTableWord 8 0x56 = some .getVersion ∧
    decodeTableWord 8 0x45 = some .reportError ∧ decodeTableWord 8 0x78 = some (.invalid (.badCmd 0x78)) := by decide

/-- The very next step runs the word's instruction. -/
theorem test_fetch_word :
    (nextOf (step (State.reset.withFetchWord 8 0x54))).map (·.inQ) = some [fromSerial (.bus (mkBusFrame .extData 0 0 []))] ∧
    (nextOf (step (State.reset.withFetchWord 8 0x56))).map (·.inQ) = some [fromSerial (.plain .getVersion)] ∧
    (nextOf (step (State.reset.withFetchWord 8 0x78))).map (·.log) = some [.decodeError (.badCmd 0x78)] := by decide

/-! ## One step -/

/-- `t12315A\r` is delivered to InQ with origin Serial (V-D, V-C, R184, R186). -/
theorem test_step_t :
    (nextOf (step (idleWith [.serLine [0x74, 0x31, 0x32, 0x33, 0x31, 0x35, 0x41, 0x0D]]))).map (·.inQ) = some [fromSerial (.bus { cmd := .stdData, id := 0x123, ext := false, rtr := false, len := 1, data := [0x5A] })] := by decide

/-- `T1ABCDEF00\r` is delivered to InQ with origin Serial (V-D, V-C, R184, R186). -/
theorem test_step_T :
    (nextOf (step (idleWith [.serLine [0x54, 0x31, 0x41, 0x42, 0x43, 0x44, 0x45, 0x46, 0x30, 0x30, 0x0D]]))).map (·.inQ) = some [fromSerial (.bus { cmd := .extData, id := 0x1ABCDEF0, ext := true, rtr := false, len := 0, data := [] })] := by decide

/-- `r123\r` is delivered to InQ with origin Serial (V-D, V-C, R184, R186). -/
theorem test_step_r :
    (nextOf (step (idleWith [.serLine [0x72, 0x31, 0x32, 0x33, 0x0D]]))).map (·.inQ) = some [fromSerial (.bus { cmd := .stdRemote, id := 0x123, ext := false, rtr := true, len := 0, data := [] })] := by decide

/-- `R1FFFFFFF\r` is delivered to InQ with origin Serial (V-D, V-C, R184, R186). -/
theorem test_step_R :
    (nextOf (step (idleWith [.serLine [0x52, 0x31, 0x46, 0x46, 0x46, 0x46, 0x46, 0x46, 0x46, 0x0D]]))).map (·.inQ) = some [fromSerial (.bus { cmd := .extRemote, id := 0x1FFFFFFF, ext := true, rtr := true, len := 0, data := [] })] := by decide

/-- `S8\r` is delivered to InQ with origin Serial (V-D, V-C, R184, R186). -/
theorem test_step_S :
    (nextOf (step (idleWith [.serLine [0x53, 0x38, 0x0D]]))).map (·.inQ) = some [fromSerial (.value .setBitrate 8)] := by decide

/-- `M0\r` is delivered to InQ with origin Serial (V-D, V-C, R184, R186). -/
theorem test_step_M :
    (nextOf (step (idleWith [.serLine [0x4D, 0x30, 0x0D]]))).map (·.inQ) = some [fromSerial (.value .setMode 0)] := by decide

/-- `A1\r` is delivered to InQ with origin Serial (V-D, V-C, R184, R186). -/
theorem test_step_A :
    (nextOf (step (idleWith [.serLine [0x41, 0x31, 0x0D]]))).map (·.inQ) = some [fromSerial (.value .setAutoRetry 1)] := by decide

/-- `O\r` is delivered to InQ with origin Serial (V-D, V-C, R184, R186). -/
theorem test_step_O :
    (nextOf (step (idleWith [.serLine [0x4F, 0x0D]]))).map (·.inQ) = some [fromSerial (.plain .openChannel)] := by decide

/-- `C\r` is delivered to InQ with origin Serial (V-D, V-C, R184, R186). -/
theorem test_step_C :
    (nextOf (step (idleWith [.serLine [0x43, 0x0D]]))).map (·.inQ) = some [fromSerial (.plain .closeChannel)] := by decide

/-- `V\r` is delivered to InQ with origin Serial (V-D, V-C, R184, R186). -/
theorem test_step_V :
    (nextOf (step (idleWith [.serLine [0x56, 0x0D]]))).map (·.inQ) = some [fromSerial (.plain .getVersion)] := by decide

/-- `E\r` is delivered to InQ with origin Serial (V-D, V-C, R184, R186). -/
theorem test_step_E :
    (nextOf (step (idleWith [.serLine [0x45, 0x0D]]))).map (·.inQ) = some [fromSerial (.plain .reportError)] := by decide

/-- `tZ23`: the log event, and InQ unchanged (V-Q). -/
theorem test_step_invalid :
    (nextOf (step (idleWith [.serLine [0x74, 0x5A, 0x32, 0x33]]))).map (fun s => (s.log, s.inQ)) =
      some ([.decodeError (.badChar 1 0x5A)], []) := by decide

/-- Scenario C: `submitFromISR` on an OutQ of 15 halts with OutQ unchanged; Invalid is rejected before the test (V-Q). -/
theorem test_submit_isr_full :
    let full := { idleWith [.submitIsr (.bus frame1)] with outQ := List.replicate 15 (.plain .openChannel) }
    let bad := { idleWith [.submitIsr .invalid] with outQ := List.replicate 15 (.plain .openChannel) }
    (nextOf (step full)).map (fun s => (s.halted, s.outQ.length)) = some (true, 15) ∧
    (nextOf (step bad)).map (fun s => (s.halted, s.ret)) = some (false, some .rejected) := by decide

/-- S3 step 1's two halves: S1 leaves the producer waiting, S2 enqueues. -/
theorem test_submit_halves :
    (nextOf (step (idleWith [.submitCall (.plain .openChannel)]))).map (fun s => (s.submitting, s.outQ)) = some ([.plain .openChannel], []) ∧
    (nextOf (step { idleWith [.submitEnqueue 0] with submitting := [.plain .openChannel] })).map
      (fun s => (s.submitting, s.outQ, s.ret)) = some ([], [.plain .openChannel], some .accepted) := by decide

/-- `RX_ISR` of V-W1's frame, origin Bus; V-W7's header halts. -/
theorem test_rx_isr :
    (nextOf (step (idleWith [.rxFrame .fifo0 rxHeader1 [0xDE, 0xAD]]))).map (·.inQ) = some [{ frame := .bus frame1, origin := .bus }] ∧
    (nextOf (step (idleWith [.rxFrame .fifo1 { rxHeader1 with dataLength := 3 } [0xDE, 0xAD]]))).map (·.halted) = some true := by decide

/-- P5: with both workers waiting, a completion notifies the receive worker only (V-I, last row). -/
theorem test_txc_priority :
    (nextOf (step { idleWith [.txComplete] with
        env := envFifo [entry1], waiting := { rxw := true, txw := true }, dropCount := 4, errCount := 3 })).map
      (fun s => (s.waiting, s.notify, s.dropCount, s.errCount, s.env.txFifo)) =
      some ({ rxw := false, txw := true }, { rxw := true, txw := false }, 0, 0, []) := by decide

/-- The sixth bus error in a row under the three readings (V-I). -/
theorem test_err_post_trip :
    let s := fun r => { idleWith [.busError .genericError none r] with dropCount := 1, errCount := 5, env := envFifo [entry1] }
    (nextOf (step (s .eq))).map (fun s => (s.dropCount, s.errCount, s.env.txFifo.length)) = some (1, 6, 1) ∧
    (nextOf (step (s .ge))).map (fun s => (s.dropCount, s.errCount, s.env.txFifo.length)) = some (2, 6, 0) := by decide

/-- The fifth error with slot 1 of two named: one entry remains (V-I). -/
theorem test_err_abort_named :
    (nextOf (step { idleWith [.busError .errorStatusChange (some 1) .geReset] with
        errCount := 4, env := envFifo [entry1, { entry1 with bytes := [1, 2] }] })).map
      (fun s => (s.dropCount, s.errCount, s.env.txFifo)) = some (1, 0, [entry1]) := by decide

/-- 5 does not exceed 5, 6 does (V-F). -/
theorem test_breaker_is_strict :
    (nextOf (step { idleWith [.rxwStep yes] with dropCount := 5, rxw := .bus (.bus frame1) .bs1 })).map (·.rxw) =
      some (.bus (.bus frame1) .bs2) ∧
    (nextOf (step { idleWith [.rxwStep yes] with dropCount := 6, rxw := .bus (.bus frame1) .bs1 })).map (·.rxw) =
      some (.bus (.bus frame1) (.bs1b 6)) := by decide

/-- S1 step 7: the submit, and the receive worker is idle, without an echo. -/
theorem test_hw_submit :
    (nextOf (step { idleWith [.rxwStep yes] with rxw := .bus (.bus frame1) (.bs6 header1) })).map (fun s => (s.env.txFifo, s.rxw)) =
      some ([entry1], .idle) := by decide

/-- The transmit worker goes on to USB even where the bus path dropped the Frame (S5 step 6). -/
theorem test_timeout_then_usb :
    (nextOf (step { idleWith [.txwStep yes] with txw := .bus (.bus frame1) (.bs5c 0) })).map (fun s => (s.dropCount, s.txw)) =
      some (1, .usb (.bus frame1) .us1) := by decide

/-- S2 steps 3 to 5: the line, its acceptance, the drop report. -/
theorem test_usb_steps :
    (nextOf (step { idleWith [.rxwStep yes] with rxw := .usb (.bus frame1) .us1 })).map (·.rxw) =
      some (.usb (.bus frame1) (.us2 line1)) ∧
    (nextOf (step { idleWith [.rxwStep yes] with rxw := .usb (.bus frame1) (.us2 line1) })).map (·.env.usbOut) = some [line1] ∧
    (nextOf (step { idleWith [.rxwStep yes] with dropCount := 3, rxw := .rst (.bus frame1) })).map
      (fun s => (s.log, s.dropCount, s.rxw)) = some ([.dropReport 3], 0, .idle) := by decide

/-- Two refusals drop the Frame with a warning that lacks the terminator (V-U). -/
theorem test_usb_dropped_busy :
    (nextOf (step { idleWith [.txwStep busy] with txw := .usb (.bus frame1) (.us4 line1 0) })).map (fun s => (s.log, s.txw)) =
      some ([.usbBusy line1.dropLast], .idle) := by decide

/-- With USB_RETRIES of 2 a refused retry leads to the delay of the last one (R5, R223; log 38). -/
theorem test_usb_second_retry :
    (nextOf (step { idleWith [.txwStep busy] with
        cfg := { Config.default with usbRetries := 2 }, txw := .usb (.bus frame1) (.us2 line1) })).map (·.txw) =
      some (.usb (.bus frame1) (.us3 line1 1)) ∧
    (nextOf (step { idleWith [.txwStep busy] with txw := .usb (.bus frame1) (.us4 line1 1) })).map (fun s => (s.log, s.txw)) =
      some ([], .usb (.bus frame1) (.us3 line1 0)) := by decide

/-- Scenario D: not connected, no queue call, no log event. -/
theorem test_usb_not_connected :
    (nextOf (step { idleWith [.txwStep yes] with
        env := { txFifo := [], connected := false, usbOut := [] }, txw := .usb (.bus frame1) .us1 })).map
      (fun s => (s.env.usbOut, s.log, s.txw)) = some ([], [], .idle) := by decide

/-- The connection changes, a tick does not change it (R268). -/
theorem test_connection_and_tick :
    (nextOf (step (idleWith [.setConnected false]))).map (·.env.connected) = some false ∧
    (nextOf (step (idleWith [.tick]))).map (·.env.connected) = some true := by decide

/-- A second construction reports an error; a restart then a construction give the state of R31 (R280, R281, R283). -/
theorem test_construct :
    (nextOf (step (idleWith [.construct]))).map (·.ret) = some (some .alreadyConstructed) ∧
    (nextOf (step { idleWith [.construct] with constructed := false, halted := true, dropCount := 9 })).map
      (fun s => (s.constructed, s.halted, s.dropCount)) = some (true, false, 0) ∧
    (nextOf (step { idleWith [.restart] with inQ := [fromSerial (.plain .openChannel)] })).map (fun s => (s.constructed, s.inQ)) =
      some (false, []) := by decide

/-- What stops: a line before construction, a completion of an empty FIFO, a line above MAX_LINE (R284, R268). -/
theorem test_refusals :
    refusalOf (step { idleWith [.serLine [0x4F, 0x0D]] with constructed := false }) = some .notConstructed ∧
    refusalOf (step (idleWith [.txComplete])) = some (.envContract .completeEmpty) ∧
    refusalOf (step { idleWith [.serLine [0x4F, 0x0D]] with cfg := { Config.default with maxLine := 1 } }) = some .lineTooLong := by
  decide
/-! ## Witnesses: concrete inputs that meet the hypotheses of each statement -/

/-- A running state keeps running whatever its other fields. -/
theorem running_of {s : State} (hc : s.constructed = true) (hh : s.halted = false) : s.running := ⟨hc, hh⟩

theorem witness_DecodeUndoesEncode :
    Config.default.wf = true ∧ (Instr.stdData 0x7FF 8 [1, 2, 3, 4, 5, 6, 7, 0xFF]).wf Config.default = true ∧
    (Instr.extData 0x1FFFFFFF 0 []).wf Config.default = true ∧ (Instr.stdRemote 0).wf Config.default = true ∧
    (Instr.setBitrate 8).wf Config.default = true ∧ Instr.closeChannel.wf Config.default = true := by decide

theorem witness_FrameRoundTrip :
    Config.default.wf = true ∧ Frame.roundTrips Config.default (.bus frame1) ∧
    Frame.roundTrips Config.default (.bus (mkBusFrame .extRemote 0x1FFFFFFF 0 [])) ∧
    Frame.roundTrips Config.default (.value .setBitrate 8) ∧ Frame.roundTrips Config.default (.plain .getVersion) ∧
    Config.default.maxSize ≤ 27 :=
  ⟨by decide, ⟨by decide, fun h => (by cases h)⟩, ⟨by decide, fun _ => rfl⟩, ⟨8, by decide, by decide⟩, trivial, by decide⟩

theorem witness_EncodeOfDecodeIsTheLineUpToCase :
    strict.wf = true ∧ strict.excessPolicy = .set .invalid ∧ strict.idRangePolicy = .set .invalid ∧
    decode strict [0x74, 0x31, 0x32, 0x33, 0x32, 0x61, 0x42, 0x63, 0x44] = .instr (.stdData 0x123 2 [0xAB, 0xCD]) ∧
    (∀ e, Instr.stdData 0x123 2 [0xAB, 0xCD] ≠ .invalid e) := ⟨by decide, rfl, rfl, by decide, fun _ h => (by cases h)⟩

theorem witness_DecodedCommandsAreWellFormed :
    lenient.wf = true ∧ idRangeReading lenient ≠ some .keep ∧ decode lenient [0x74, 0x46, 0x46, 0x46, 0x30, 0x0D] = .instr (.stdData 0x7FF 0 []) ∧
    (∀ e, Instr.stdData 0x7FF 0 [] ≠ .invalid e) := ⟨by decide, by decide, by decide, fun _ h => (by cases h)⟩

/-- The largest identifiers, at lengths 8 and 0. -/
theorem witness_DataLineFields :
    (FrameCmd.extData.isRtr = false ∧ ([0x31, 0x46, 0x46, 0x46, 0x46, 0x46, 0x46, 0x46] : List Byte).length = FrameCmd.extData.idDigits Config.default ∧
      (∀ b ∈ ([0x31, 0x46, 0x46, 0x46, 0x46, 0x46, 0x46, 0x46] : List Byte) ++ 0x38 :: [0x31, 0x31, 0x32, 0x32, 0x33, 0x33, 0x34, 0x34, 0x35, 0x35, 0x36, 0x36, 0x37, 0x37, 0x38, 0x38], ishex b = true) ∧ hexval 0x38 ≤ 8 ∧
      ([0x31, 0x31, 0x32, 0x32, 0x33, 0x33, 0x34, 0x34, 0x35, 0x35, 0x36, 0x36, 0x37, 0x37, 0x38, 0x38] : List Byte).length = 2 * hexval 0x38 ∧
      ((List.range (FrameCmd.extData.idDigits Config.default)).map fun j =>
        hexval (([0x31, 0x46, 0x46, 0x46, 0x46, 0x46, 0x46, 0x46] : List Byte).getD j 0) * 16 ^ (FrameCmd.extData.idDigits Config.default - 1 - j)).sum ≤ FrameCmd.extData.idMax Config.default) ∧
    (FrameCmd.stdData.isRtr = false ∧ ([0x37, 0x66, 0x66] : List Byte).length = FrameCmd.stdData.idDigits Config.default ∧
      (∀ b ∈ ([0x37, 0x66, 0x66] : List Byte) ++ 0x30 :: [], ishex b = true) ∧ hexval 0x30 ≤ 8 ∧ ([] : List Byte).length = 2 * hexval 0x30 ∧
      ((List.range (FrameCmd.stdData.idDigits Config.default)).map fun j =>
        hexval (([0x37, 0x66, 0x66] : List Byte).getD j 0) * 16 ^ (FrameCmd.stdData.idDigits Config.default - 1 - j)).sum ≤ FrameCmd.stdData.idMax Config.default) := by
  decide

theorem witness_UnknownCommandByteIsInvalid : cmdOfChar Config.default 0x0D = none ∧ cmdOfChar Config.default 0x73 = none := by decide

/-- A bad byte at the first body position, and one behind two digits. -/
theorem witness_NonHexBodyByteIsInvalid :
    ([0x5A, 0x32, 0x33] : List Byte) ≠ [] ∧ cmdOfChar Config.default 0x74 = some (.frame .stdData) ∧
    (stripCr Config.default [0x5A, 0x32, 0x33])[0]? = some 0x5A ∧ ishex 0x5A = false ∧ (∀ q, q < 0 → ∀ d, (stripCr Config.default [0x5A, 0x32, 0x33])[q]? = some d → ishex d = true) ∧
    decode Config.default [0x74, 0x31, 0x32, 0x47, 0x0D] = .instr (.invalid (.badChar (2 + 1) 0x47)) :=
  ⟨by decide, by decide, by decide, by decide, fun q hq => absurd hq (Nat.not_lt_zero q), by decide⟩

/-- One input per clause, at the edge of its range. -/
theorem witness_StructuralFailuresAreInvalid :
    (∀ b ∈ ([0x31, 0x32] : List Byte), ishex b = true) ∧ cmdOfChar strict 0x74 = some (.frame .stdData) ∧
    ([0x31, 0x32] : List Byte).length < FrameCmd.stdData.idDigits strict ∧
    FrameCmd.stdData.isRtr = false ∧ FrameCmd.stdData.idDigits strict ≤ ([0x37, 0x46, 0x46] : List Byte).length ∧
    hexNum (([0x37, 0x46, 0x46] : List Byte).take (FrameCmd.stdData.idDigits strict)) ≤ FrameCmd.stdData.idMax strict ∧
    ([0x37, 0x46, 0x46] : List Byte).length = FrameCmd.stdData.idDigits strict ∧
    ([0x37, 0x46, 0x46, 0x39] : List Byte).drop (FrameCmd.stdData.idDigits strict) = 0x39 :: [] ∧ 8 < hexval 0x39 ∧
    ([0x37, 0x46, 0x46, 0x31, 0x31] : List Byte).drop (FrameCmd.stdData.idDigits strict) = 0x31 :: [0x31] ∧ hexval 0x31 ≤ 8 ∧
    ([0x31] : List Byte).length < 2 * hexval 0x31 ∧
    cmdOfChar strict 0x53 = some (.value .setBitrate) ∧ valTab strict .setBitrate (hexval 0x39) = none ∧
    decode strict (0x74 :: ([0x38, 0x30, 0x30, 0x30] ++ [0x0D])) = .instr (.invalid (.idRange 0x800)) ∧
    decode strict (0x4F :: ([0x31] ++ [0x0D])) = .instr (.invalid (.excess 1 2)) := by decide

theorem witness_ExcessDigitsFollowThePolicy :
    strict.wf = true ∧ (Instr.setBitrate 1).wf strict = true ∧ encode strict (.setBitrate 1) = some ([0x53, 0x31] ++ [0x0D]) ∧
    ([0x32] : List Byte) ≠ [] ∧ (∀ b ∈ ([0x32] : List Byte), ishex b = true) := by decide

/-- One above each width's maximum; for the data command with one payload byte. -/
theorem witness_IdentifierRangeFollowsThePolicy :
    (([0x38, 0x30, 0x30] : List Byte).length = FrameCmd.stdRemote.idDigits Config.default ∧
      (∀ b ∈ ([0x38, 0x30, 0x30] : List Byte) ++ 0x30 :: [], ishex b = true) ∧
      FrameCmd.stdRemote.idMax Config.default < hexNum [0x38, 0x30, 0x30] ∧ hexval 0x30 ≤ Config.default.maxDlc ∧
      ([] : List Byte).length = 2 * hexval 0x30 ∧ ([] : List Byte).length = hexval 0x30) ∧
    (([0x32, 0x30, 0x30, 0x30, 0x30, 0x30, 0x30, 0x30] : List Byte).length = FrameCmd.extData.idDigits Config.default ∧
      (∀ b ∈ ([0x32, 0x30, 0x30, 0x30, 0x30, 0x30, 0x30, 0x30] : List Byte) ++ 0x31 :: [0x35, 0x61], ishex b = true) ∧
      FrameCmd.extData.idMax Config.default < hexNum [0x32, 0x30, 0x30, 0x30, 0x30, 0x30, 0x30, 0x30] ∧ hexval 0x31 ≤ Config.default.maxDlc ∧
      ([0x35, 0x61] : List Byte).length = 2 * hexval 0x31 ∧ ([0x5A] : List Byte).length = hexval 0x31 ∧
      (∀ i, i < hexval 0x31 → (([0x5A] : List Byte).getD i 0).toNat =
        hexval (([0x35, 0x61] : List Byte).getD (2 * i) 0) * 16 + hexval (([0x35, 0x61] : List Byte).getD (2 * i + 1) 0))) := by
  decide

/-- The payload is carried on under the mask. -/
theorem test_id_range_mask_keeps_payload :
    decode lenient [0x54, 0x32, 0x30, 0x30, 0x30, 0x30, 0x30, 0x30, 0x31, 0x31, 0x35, 0x61, 0x0D] = .instr (.extData 1 1 [0x5A]) := by decide

theorem witness_CaseAndTerminatorDoNotMatter :
    (0x61 : Byte) ∈ ([0x61, 0x62, 0x63, 0x64, 0x65, 0x66] : List Byte) ∧ (0x66 : Byte) ∈ ([0x61, 0x62, 0x63, 0x64, 0x65, 0x66] : List Byte) ∧
    (∀ b ∈ ([0x31, 0x61, 0x62] : List Byte), ishex b = true) ∧ (∀ b ∈ ([0x31, 0x41, 0x42] : List Byte), ishex b = true) ∧
    ([0x31, 0x61, 0x62] : List Byte).map hexval = ([0x31, 0x41, 0x42] : List Byte).map hexval ∧ ([0x31, 0x61, 0x62] : List Byte) ≠ [] ∧
    ishex Config.default.terminator = false := by decide

theorem witness_EncodeWritesExactlySizeBytes : encodeCap Config.default (.bus frame1) 10 = .written line1 := by decide

/-- The two bounds, and the largest standard line. -/
theorem witness_SizeBounds :
    (∀ f, Frame.bus (mkBusFrame .extData 0 8 []) = .bus f → f.len ≤ Config.default.maxDlc) ∧ size Config.default (.bus (mkBusFrame .extData 0 8 [])) = some 27 ∧
    (∀ f, Frame.plain .openChannel = .bus f → f.len ≤ Config.default.maxDlc) ∧ size Config.default (.plain .openChannel) = some 2 ∧
    size Config.default (.bus (mkBusFrame .stdData 0 8 [])) = some 22 ∧
    Config.default.stdIdDigits = 3 ∧ Config.default.extIdDigits = 8 ∧ Config.default.maxDlc = 8 :=
  ⟨fun f h => (by cases h; exact Nat.le_refl 8), rfl, fun f h => (by cases h), rfl, rfl, rfl, rfl, rfl⟩

theorem witness_EncodeFailsBelowSize :
    size Config.default (.bus frame1) = some 10 ∧ encodeFrame Config.default (.bus frame1) = some line1 ∧ 10 ≤ 10 ∧ 9 < 10 := by decide

theorem witness_FrameLineBytes :
    ([1, 2, 3, 4, 5, 6, 7, 8] : List Byte).length ≤ Config.default.maxDlc ∧ (0x7FF : CanId).toNat ≤ Config.default.stdIdMax ∧
    (0x1FFFFFFF : CanId).toNat ≤ Config.default.extIdMax := by decide

theorem witness_HeaderConversion : (∀ f, Frame.invalid ≠ .bus f) ∧ (∀ f, Frame.value .setMode 0 ≠ .bus f) :=
  ⟨fun _ h => (by cases h), fun _ h => (by cases h)⟩

theorem witness_WrapUndoesHeaderConversion :
    frame1.wf Config.default = true ∧ toTxHeader (.bus frame1) = some header1 ∧ toRxHeader (.bus frame1) = some rxHeader1 :=
  ⟨by decide, by decide, by decide⟩

theorem witness_ConstructorsBuildTheCommandFrames :
    8 ≤ Config.default.maxDlc ∧ 8 ≤ ([1, 2, 3, 4, 5, 6, 7, 8] : List Byte).length ∧ (0x7FF : CanId).toNat ≤ Config.default.stdIdMax ∧
    (0x1FFFFFFF : CanId).toNat ≤ Config.default.extIdMax := by decide

/-- One place left in InQ (V-Q). -/
theorem witness_FrameCommandsAreDelivered :
    let s := { State.reset with inQ := List.replicate 149 (fromSerial (.plain .openChannel)) }
    s.running ∧ s.inQ.length < s.cfg.inQCap := ⟨running_of rfl rfl, by simp [State.reset, Config.default]⟩

theorem witness_ControlCommandsAreDelivered : State.reset.running ∧ State.reset.inQ.length < State.reset.cfg.inQCap :=
  ⟨running_of rfl rfl, by decide⟩

theorem witness_InvalidIsLoggedAndRejected : State.reset.running := running_of rfl rfl

theorem witness_FullInQueueHalts :
    let s := { State.reset with inQ := List.replicate 150 (fromSerial (.plain .openChannel)) }
    s.running ∧ (∀ e, Instr.openChannel ≠ .invalid e) ∧ s.inQ.length = s.cfg.inQCap :=
  ⟨running_of rfl rfl, fun _ h => (by cases h), by simp [State.reset, Config.default]⟩

/-- A completion with a transmission in the FIFO, and a worker's step, before construction and on a halted block. -/
theorem witness_CommandsNeedARunningBlock :
    let u := fun e => { idleWith [e] with constructed := false, env := envFifo [entry1] }
    let h := fun e => { idleWith [e] with halted := true, env := envFifo [entry1] }
    (∀ e, (u e).constructed = false ∧ (u e).schedule = e :: [] ∧ (u e).env.txFifo ≠ []) ∧
    (∀ e, (h e).constructed = true ∧ (h e).halted = true ∧ (h e).schedule = e :: [] ∧ (h e).serialCallback = true ∧
      (h e).env.txFifo = entry1 :: []) ∧
    Event.txComplete.ofBlock = true ∧ (Event.txwStep yes).ofBlock = true ∧ Event.txwStep yes ≠ .txComplete :=
  ⟨fun _ => ⟨rfl, rfl, fun h => nomatch h⟩, fun _ => ⟨rfl, rfl, rfl, rfl, rfl⟩, rfl, rfl, by decide⟩

/-- A line that decodes, a buffer that does not, and a line one above MAX_LINE. -/
theorem witness_StepRunsTheDecodedInstruction :
    (idleWith [.serLine [0x4F, 0x0D]]).running ∧ (idleWith [.serLine [0x4F, 0x0D]]).serialCallback = true ∧
    ([0x4F, 0x0D] : List Byte).length ≤ Config.default.maxLine ∧ decode Config.default [0x4F, 0x0D] = .instr .openChannel ∧
    decode Config.default [0x4F] = .refuse .shortBuffer ∧
    ({ Config.default with maxLine := 1 } : Config).maxLine < ([0x4F, 0x0D] : List Byte).length :=
  ⟨running_of rfl rfl, rfl, by decide, by decide, by decide, by decide⟩

theorem witness_SubmitFromIsrStep :
    let s := fun F n => { idleWith [.submitIsr F] with outQ := List.replicate n (.plain .openChannel) }
    (s .invalid 0).running ∧ (s .invalid 0).schedule = .submitIsr .invalid :: [] ∧
    (s (.bus frame1) 14).running ∧ Frame.bus frame1 ≠ .invalid ∧ (s (.bus frame1) 14).outQ.length < (s (.bus frame1) 14).cfg.outQCap ∧
    (s (.bus frame1) 15).running ∧ (s (.bus frame1) 15).outQ.length = (s (.bus frame1) 15).cfg.outQCap :=
  ⟨running_of rfl rfl, rfl, running_of rfl rfl, by decide, by decide, running_of rfl rfl, by decide⟩

theorem witness_SubmitSteps :
    (idleWith [.submitCall .invalid]).running ∧ (idleWith [.submitCall .invalid]).schedule = .submitCall .invalid :: [] ∧
    (idleWith [.submitCall (.bus frame1)]).schedule = .submitCall (.bus frame1) :: [] ∧ Frame.bus frame1 ≠ .invalid ∧
    (let s := fun n => { idleWith [.submitEnqueue 0] with outQ := List.replicate n (.plain .openChannel), submitting := [.bus frame1] }
     (s 14).running ∧ (s 14).schedule = .submitEnqueue 0 :: [] ∧ (s 14).submitting[0]? = some (.bus frame1) ∧
     (s 14).outQ.length < (s 14).cfg.outQCap ∧ (s 15).outQ.length = (s 15).cfg.outQCap) :=
  ⟨running_of rfl rfl, rfl, rfl, by decide, running_of rfl rfl, rfl, rfl, by decide, by decide⟩

/-- A mismatch by one, a length of 9, a length of 8 with a full and a not quite full InQ. -/
theorem witness_RxIsrStep :
    let s := fun n => { idleWith [.rxFrame .fifo0 { rxHeader1 with dataLength := 8 } [1, 2, 3, 4, 5, 6, 7, 8]] with
      inQ := List.replicate n (fromSerial (.plain .openChannel)) }
    (s 0).running ∧ (s 0).schedule = .rxFrame .fifo0 { rxHeader1 with dataLength := 8 } [1, 2, 3, 4, 5, 6, 7, 8] :: [] ∧
    (2 : Nat) ≠ ([1] : List Byte).length ∧ (s 0).cfg.maxDlc < 9 ∧ 8 ≤ (s 0).cfg.maxDlc ∧ (8 : Nat) = ([1, 2, 3, 4, 5, 6, 7, 8] : List Byte).length ∧
    (s 150).inQ.length = (s 150).cfg.inQCap ∧ (s 149).inQ.length < (s 149).cfg.inQCap :=
  ⟨running_of rfl rfl, rfl, by decide, by decide, by decide, by decide, by simp [idleWith, State.reset, Config.default],
    by simp [idleWith, State.reset, Config.default]⟩

theorem witness_TxCompleteStep :
    let s := { idleWith [.txComplete] with env := envFifo [entry1], waiting := { rxw := true, txw := true } }
    s.running ∧ s.schedule = .txComplete :: [] ∧ s.env.txFifo = entry1 :: [] := ⟨running_of rfl rfl, rfl, rfl⟩

/-- Below, at and past the threshold, with the event's reading and with one that is set. -/
theorem witness_BusErrorStep :
    let s := fun n r => { idleWith [.busError .genericError (some 0) r] with errCount := n, env := envFifo [entry1] }
    let c := { s 5 .eq with cfg := { Config.default with berrPostTrip := some .ge } }
    (∀ n r, (s n r).running ∧ (∀ k, some 0 = some k → k < (s n r).env.txFifo.length) ∧ (s n r).cfg.berrPostTrip = none) ∧
    (s 3 .eq).errCount + 1 < (s 3 .eq).cfg.errThreshold ∧ (s 4 .geReset).errCount + 1 = (s 4 .geReset).cfg.errThreshold ∧
    (s 5 .ge).cfg.errThreshold < (s 5 .ge).errCount + 1 ∧ c.running ∧ c.cfg.berrPostTrip = some .ge ∧
    c.cfg.errThreshold < c.errCount + 1 :=
  ⟨fun _ _ => ⟨running_of rfl rfl, fun k hk => (by cases hk; exact Nat.zero_lt_succ _), rfl⟩, by decide, by decide, by decide, running_of rfl rfl, rfl,
    by decide⟩

theorem witness_MovesFromOutsideTheBlock :
    (idleWith [.construct]).schedule = .construct :: [] ∧ (idleWith [.construct]).running ∧
    ({ idleWith [.construct] with constructed := false } : State).constructed = false ∧
    ({ idleWith [.restart] with halted := true } : State).schedule = .restart :: [] ∧
    (idleWith [.setConnected false]).schedule = .setConnected false :: [] ∧ (idleWith [.tick]).schedule = .tick :: [] :=
  ⟨rfl, running_of rfl rfl, rfl, rfl, rfl, rfl⟩

theorem witness_WorkersDequeueAndRoute :
    let t := fun p q => { idleWith [.txwStep yes] with txw := p, outQ := q }
    let r := fun p q => { idleWith [.rxwStep yes] with rxw := p, inQ := q }
    (∀ p q, (t p q).running ∧ (t p q).schedule = .txwStep yes :: []) ∧ (∀ p q, (r p q).running ∧ (r p q).schedule = .rxwStep yes :: []) ∧
    (t .idle []).outQ = [] ∧ (r .idle []).inQ = [] ∧ (t .idle [.bus frame1]).txw = .idle ∧ (t .idle [.bus frame1]).outQ = .bus frame1 :: [] ∧
    (t (.got (.bus frame1)) []).txw = .got (.bus frame1) ∧ (∀ f, Frame.plain .openChannel ≠ .bus f) ∧
    (r .idle [fromSerial (.bus frame1)]).inQ = fromSerial (.bus frame1) :: [] ∧
    (r (.got { frame := .bus frame1, origin := .bus }) []).rxw = .got { frame := .bus frame1, origin := .bus } ∧
    (r (.got { frame := .bus frame1, origin := .serial }) []).rxw = .got { frame := .bus frame1, origin := .serial } :=
  ⟨fun _ _ => ⟨running_of rfl rfl, rfl⟩, fun _ _ => ⟨running_of rfl rfl, rfl⟩, rfl, rfl, rfl, rfl, rfl, fun _ h => (by cases h),
    rfl, rfl, rfl⟩

theorem witness_BusReceptionClearsTheDropCount :
    let s := { idleWith [.rxwStep yes] with dropCount := 3, rxw := .rst (.bus frame1) }
    s.running ∧ s.schedule = .rxwStep yes :: [] ∧ s.rxw = .rst (.bus frame1) := ⟨running_of rfl rfl, rfl, rfl⟩

/-- A drop count of 6, one of 5, and both settings of ATOMIC_COUNTERS. -/
theorem witness_BreakerTestAndDrop :
    let s := fun n b => { State.reset with dropCount := n, cfg := { Config.default with atomicCounters := b } }
    (∀ n b, (s n b).running) ∧ (s 6 false).cfg.dropThreshold < (s 6 false).dropCount ∧
    (s 5 false).dropCount ≤ (s 5 false).cfg.dropThreshold ∧ (s 6 false).cfg.atomicCounters = false ∧
    (s 6 true).cfg.atomicCounters = true := ⟨fun _ _ => running_of rfl rfl, by decide, by decide, rfl, rfl⟩

/-- Three slots of three occupied, and two; notified and not. -/
theorem witness_RoomWaitSteps :
    let s := fun l b => { State.reset with env := envFifo l, notify := { rxw := b, txw := false } }
    (∀ l b, (s l b).running) ∧
    (s [entry1, entry1, entry1] true).cfg.txFifoDepth ≤ (s [entry1, entry1, entry1] true).env.txFifo.length ∧
    (s [entry1, entry1] true).env.txFifo.length < (s [entry1, entry1] true).cfg.txFifoDepth ∧
    (s [] true).notify.get .rxw = true ∧ (s [] false).notify.get .rxw = false ∧ toTxHeader (.bus frame1) = some header1 ∧
    toTxHeader (.plain .openChannel) = none ∧ (s [] true).cfg.atomicCounters = false ∧
    ({ Config.default with atomicCounters := true } : Config).atomicCounters = true :=
  ⟨fun _ _ => running_of rfl rfl, by decide, by decide, rfl, rfl, by decide, rfl, rfl, rfl⟩

theorem witness_HardwareSubmitStep :
    let s := fun l p => { State.reset with env := envFifo l, cfg := { Config.default with submitFullPolicy := p } }
    (∀ l p, (s l p).running) ∧ (s [entry1, entry1] .unset).env.txFifo.length < (s [entry1, entry1] .unset).cfg.txFifoDepth ∧
    (∀ p, (s [entry1, entry1, entry1] p).cfg.txFifoDepth ≤ (s [entry1, entry1, entry1] p).env.txFifo.length) ∧
    (s [] .unset).cfg.submitFullPolicy = .unset ∧ (s [] .environment).cfg.submitFullPolicy = .environment ∧
    ({ yes with fullFifo := [entry1, entry1, entry1] } : Answers).fullFifo.length ≤ (s [] .environment).cfg.txFifoDepth :=
  ⟨fun _ _ => running_of rfl rfl, by decide, fun _ => Nat.le_refl 3, rfl, rfl, by decide⟩

theorem witness_UsbForwardingSteps :
    let s := fun b => { State.reset with env := { txFifo := [], connected := b, usbOut := [] } }
    (∀ b, (s b).running) ∧ (s false).env.connected = false ∧ (s true).env.connected = true ∧
    encodeFrame (s true).cfg (.bus frame1) = some line1 ∧ line1.length ≤ (s true).cfg.usbBufSize ∧
    ({ Config.default with usbBufSize := 9 } : Config).usbBufSize < line1.length ∧ yes.usbAccepts = true ∧ busy.usbAccepts = false ∧
    encodeFrame (s true).cfg (.bus (mkBusFrame .stdData 0x800 0 [])) = none ∧ (s true).cfg.usbRetries = 0 + 1 :=
  ⟨fun _ => running_of rfl rfl, rfl, rfl, by decide, by decide, by decide, rfl, rfl, by decide, rfl⟩

/-- Program S1. -/
theorem witness_SerialFrameReachesTheBus :
    let s := idleWith [.serLine [0x74, 0x31, 0x32, 0x33, 0x32, 0x44, 0x45, 0x41, 0x44, 0x0D], .rxwStep yes, .rxwStep yes, .rxwStep yes, .rxwStep yes, .rxwStep yes, .rxwStep yes]
    s.running ∧ s.serialCallback = true ∧ s.rxw = .idle ∧ s.inQ = [] ∧ 0 < s.cfg.inQCap ∧ s.dropCount ≤ s.cfg.dropThreshold ∧
    s.env.txFifo.length < s.cfg.txFifoDepth ∧ line1.length ≤ s.cfg.maxLine ∧ decode s.cfg line1 = .instr (.stdData 0x123 2 [0xDE, 0xAD]) ∧
    toTxHeader (Instr.stdData 0x123 2 [0xDE, 0xAD]).frame = some header1 :=
  ⟨running_of rfl rfl, rfl, rfl, rfl, by decide, by decide, by decide, by decide, by decide, by decide⟩

theorem witness_ControlCommandsPassWithoutEffect :
    let s := idleWith [.serLine [0x53, 0x36, 0x0D], .rxwStep yes, .rxwStep busy]
    let u := idleWith [.submitIsr (Instr.setBitrate 6).frame, .txwStep yes, .txwStep busy]
    s.running ∧ s.serialCallback = true ∧ (∀ e, Instr.setBitrate 6 ≠ .invalid e) ∧ toTxHeader (Instr.setBitrate 6).frame = none ∧
    s.rxw = .idle ∧ s.inQ = [] ∧ 0 < s.cfg.inQCap ∧ ([0x53, 0x36, 0x0D] : List Byte).length ≤ s.cfg.maxLine ∧
    decode s.cfg [0x53, 0x36, 0x0D] = .instr (.setBitrate 6) ∧ 
    s.schedule = .serLine [0x53, 0x36, 0x0D] :: .rxwStep yes :: .rxwStep busy :: [] ∧
    u.running ∧ u.serialCallback = true ∧ u.txw = .idle ∧ u.outQ = [] ∧ 0 < u.cfg.outQCap ∧
    u.schedule = .submitIsr (Instr.setBitrate 6).frame :: .txwStep yes :: .txwStep busy :: [] :=
  ⟨running_of rfl rfl, rfl, fun _ h => (by cases h), rfl, rfl, rfl, by decide, by decide, by decide, rfl, running_of rfl rfl, rfl, rfl, rfl,
    by decide, rfl⟩

/-- Program S2. -/
theorem witness_BusFrameReachesUsb :
    let s := { idleWith [.rxFrame .fifo0 rxHeader1 [0xDE, 0xAD], .rxwStep yes, .rxwStep yes, .rxwStep yes, .rxwStep yes, .rxwStep yes] with
      dropCount := 3 }
    s.running ∧ s.rxw = .idle ∧ s.inQ = [] ∧ 0 < s.cfg.inQCap ∧ s.env.connected = true ∧
    wrapRx s.cfg rxHeader1 [0xDE, 0xAD] = some (.bus frame1) ∧ encodeFrame s.cfg (.bus frame1) = some line1 ∧
    line1.length ≤ s.cfg.usbBufSize ∧ yes.usbAccepts = true :=
  ⟨running_of rfl rfl, rfl, rfl, by decide, rfl, by decide, by decide, by decide, rfl⟩

/-- Program S3, with a data Frame submitted from interrupt context. -/
theorem witness_SubmittedFrameReachesBothMedia :
    let s := idleWith (.submitIsr (.bus frame1) :: List.replicate 8 (.txwStep yes))
    s.running ∧ s.txw = .idle ∧ s.outQ = [] ∧ 0 < s.cfg.outQCap ∧ s.dropCount ≤ s.cfg.dropThreshold ∧
    s.env.txFifo.length < s.cfg.txFifoDepth ∧ s.env.connected = true ∧ toTxHeader (.bus frame1) = some header1 ∧
    encodeFrame s.cfg (.bus frame1) = some line1 ∧ line1.length ≤ s.cfg.usbBufSize ∧ yes.usbAccepts = true :=
  ⟨running_of rfl rfl, rfl, rfl, by decide, by decide, by decide, rfl, by decide, by decide, by decide, rfl⟩

/-- Program S4, frames 6 and 7. -/
theorem witness_OpenBreakerCountsAndNeverSubmits :
    let s := { idleWith ((List.replicate 8 yes).map .rxwStep ++ []) with
      dropCount := 6, inQ := [fromSerial (.bus frame1), fromSerial (.bus frame1)] }
    s.running ∧ s.rxw = .idle ∧ s.cfg.dropThreshold < s.dropCount ∧ s.inQ.length = 2 ∧
    (∀ x ∈ s.inQ, transmittable x.frame = true ∧ x.origin = .serial) ∧ (List.replicate 8 yes).length = 4 * 2 :=
  ⟨running_of rfl rfl, rfl, by decide, by decide, by decide, by decide⟩

theorem witness_RoomTimeoutCountsOneDrop :
    let s := { idleWith (List.replicate 7 (workerStep .txw busy)) with dropCount := 5, env := envFifo [entry1, entry1, entry1] }
    s.running ∧ s.cfg.atomicCounters = false ∧ s.dropCount ≤ s.cfg.dropThreshold ∧ s.cfg.txFifoDepth ≤ s.env.txFifo.length ∧
    s.notify.get .txw = false ∧ toTxHeader (.bus frame1) = some header1 :=
  ⟨running_of rfl rfl, rfl, by decide, by decide, rfl, by decide⟩

theorem witness_CounterResetCanBeLost :
    let s := { idleWith [workerStep .rxw yes, .txComplete, workerStep .rxw yes] with dropCount := 4, env := envFifo [entry1] }
    s.running ∧ s.cfg.atomicCounters = false ∧ s.env.txFifo ≠ [] := ⟨running_of rfl rfl, rfl, by decide⟩

theorem witness_WakeUpCanBeLost :
    let s := { idleWith (.txComplete :: List.replicate 4 (workerStep .rxw yes)) with env := envFifo [entry1, entry1, entry1] }
    s.running ∧ s.cfg.atomicCounters = false ∧ s.env.txFifo.length = s.cfg.txFifoDepth ∧ s.env.txFifo ≠ [] ∧
    s.waiting = { rxw := false, txw := false } ∧ s.notify.get .rxw = false := ⟨running_of rfl rfl, rfl, by decide, by decide, rfl, rfl⟩

theorem witness_FifthBusErrorAborts :
    let s := { idleWith (List.replicate 5 (.busError .genericError (some 0) .geReset)) with env := envFifo [entry1, entry1] }
    s.running ∧ s.errCount = 0 ∧ s.cfg.errThreshold = 5 ∧ (∀ k, some 0 = some k → k < s.env.txFifo.length) :=
  ⟨running_of rfl rfl, rfl, rfl, fun k hk => (by cases hk; exact Nat.zero_lt_succ _)⟩

/-- A state with an entry in every queue and a worker in the middle of a transmission meets the invariant. -/
def midRun (moves : List Event) : State :=
  { idleWith moves with
    outQ := [.bus frame1]
    inQ := [fromSerial (.bus frame1)]
    txw := .bus (.bus frame1) (.bs3 header1)
    rxw := .got (fromSerial (.bus frame1)) }

theorem midRun_inv (moves : List Event) : (midRun moves).Inv where
  outBound := show 1 ≤ 15 by decide
  inBound := show 1 ≤ 150 by decide
  outValid := show ∀ F ∈ [Frame.bus frame1], F ≠ .invalid by decide
  inValid := show ∀ x ∈ [fromSerial (.bus frame1)], x.frame ≠ .invalid by decide
  submittingValid := fun _ h => nomatch h
  fifoBound := Nat.zero_le 3
  txwOk := ⟨rfl, show toTxHeader (.bus frame1) = some header1 by decide⟩
  rxwOk := show Frame.bus frame1 ≠ .invalid by decide
  callback := fun _ => rfl

theorem frame1_wf : (Frame.bus frame1).wf Config.default = true := by decide

theorem midRun_heldWf (moves : List Event) (h : ∀ e ∈ moves, e.honest Config.default) : (midRun moves).HeldWf where
  outQ := fun _ hF => List.mem_singleton.1 hF ▸ frame1_wf
  inQ := fun _ hx => List.mem_singleton.1 hx ▸ ⟨fun _ => frame1_wf, fun _ => frame1_wf⟩
  submitting := fun _ hF => nomatch hF
  txw := fun _ hF => Option.some.inj hF ▸ frame1_wf
  rxw := fun _ hF => Option.some.inj hF ▸ ⟨fun _ => frame1_wf, fun _ => frame1_wf⟩
  schedule := h

/-- Frames that meet R13 are Frames of any kind. -/
theorem heldEncode_of_heldWf {s : State} (h : s.HeldWf) : s.HeldEncode where
  outQ := h.outQ
  inQ := fun x hx => ⟨(h.inQ x hx).1, fun _ => trivial⟩
  submitting := h.submitting
  txw := h.txw
  rxw := fun x hx => ⟨(h.rxw x hx).1, fun _ => trivial⟩
  schedule := h.schedule

theorem witness_StepKeepsTheInvariant : (midRun [.txwStep yes]).Inv ∧ ∃ t, step (midRun [.txwStep yes]) = .next t :=
  ⟨midRun_inv _, _, rfl⟩

/-- With the reading `mask` of ID_RANGE_POLICY, which is not `keep`. -/
theorem witness_StepKeepsFramesEncodable :
    let s := { midRun [.txwStep yes] with cfg := lenient }
    s.cfg.wf = true ∧ idRangeReading s.cfg ≠ some .keep ∧ s.HeldWf ∧ s.HeldEncode ∧ ∃ t, step s = .next t := by
  have h : ({ midRun [.txwStep yes] with cfg := lenient } : State).HeldWf :=
    let h := midRun_heldWf [.txwStep yes] (fun e he => by cases List.mem_singleton.1 he; trivial)
    ⟨h.outQ, h.inQ, h.submitting, h.txw, h.rxw, fun e he => by cases List.mem_singleton.1 he; trivial⟩
  exact ⟨by decide, by decide, h, heldEncode_of_heldWf h, _, rfl⟩

/-- The worker's own steps, and a move of another agent. -/
theorem witness_TransmitWorkerAlwaysFinishes :
    let s := midRun ((List.replicate 12 yes).map .txwStep ++ [])
    let u := midRun [.rxwStep yes]
    (s.running ∧ s.cfg.wf = true ∧ s.cfg.submitFullPolicy = .environment ∧ s.Inv ∧ s.HeldEncode ∧ s.txw ≠ .idle ∧
      s.schedule = .txwStep yes :: (List.replicate 11 yes).map .txwStep ∧ yes.fit s.cfg ∧
      (List.replicate 12 yes).length = 10 + 2 * s.cfg.usbRetries ∧ (∀ a ∈ List.replicate 12 yes, a.fit s.cfg)) ∧
    u.schedule = .rxwStep yes :: [] ∧ (∀ a, Event.rxwStep yes ≠ .txwStep a) ∧ (Event.rxwStep yes).resets = false ∧
      ∃ t, step u = .next t := by
  refine ⟨⟨running_of rfl rfl, by decide, rfl, midRun_inv _, heldEncode_of_heldWf (midRun_heldWf _ ?_), by decide, rfl, Nat.zero_le _, by decide,
    ?_⟩, rfl, fun _ h => (by cases h), rfl, _, rfl⟩
  · intro e he
    cases List.eq_of_mem_replicate (n := 12) (a := Event.txwStep yes) (by simpa using he)
    trivial
  · intro a ha
    cases List.eq_of_mem_replicate ha
    exact Nat.zero_le _

/-- The worker's own steps, and a move of another agent. -/
theorem witness_ReceiveWorkerAlwaysFinishes :
    let s := midRun ((List.replicate 8 yes).map .rxwStep ++ [])
    let u := midRun [.txwStep yes]
    (s.running ∧ s.cfg.wf = true ∧ s.cfg.submitFullPolicy = .environment ∧ s.Inv ∧ s.HeldEncode ∧ s.rxw ≠ .idle ∧
      s.schedule = .rxwStep yes :: (List.replicate 7 yes).map .rxwStep ∧ yes.fit s.cfg ∧
      (List.replicate 8 yes).length = max 8 (4 + 2 * s.cfg.usbRetries) ∧ (∀ a ∈ List.replicate 8 yes, a.fit s.cfg)) ∧
    u.schedule = .txwStep yes :: [] ∧ (∀ a, Event.txwStep yes ≠ .rxwStep a) ∧ (Event.txwStep yes).resets = false ∧
      ∃ t, step u = .next t := by
  refine ⟨⟨running_of rfl rfl, by decide, rfl, midRun_inv _, heldEncode_of_heldWf (midRun_heldWf _ ?_), by decide, rfl, Nat.zero_le _, by decide,
    ?_⟩, rfl, fun _ h => (by cases h), rfl, _, rfl⟩
  · intro e he
    cases List.eq_of_mem_replicate (n := 8) (a := Event.rxwStep yes) (by simpa using he)
    trivial
  · intro a ha
    cases List.eq_of_mem_replicate ha
    exact Nat.zero_le _

theorem witness_HaltedBlockIsFrozen :
    let s := { midRun [.txwStep yes] with halted := true }
    s.constructed = true ∧ s.halted = true ∧ (∀ rest, s.schedule ≠ .restart :: rest) ∧ ∃ t, step s = .next t :=
  ⟨rfl, rfl, fun _ h => (by cases h), _, rfl⟩

/-- One witness for each of the three ways in. -/
theorem witness_OnlyFatalCausesHalt :
    let a := { idleWith [.serLine [0x4F, 0x0D]] with cfg := { Config.default with inQCap := 0 } }
    let b := idleWith [.rxFrame .fifo0 { rxHeader1 with dataLength := 9 } []]
    let c := { idleWith [.submitIsr (.bus frame1)] with cfg := { Config.default with outQCap := 0 } }
    (a.halted = false ∧ (nextOf (step a)).map (·.halted) = some true) ∧ (b.halted = false ∧ (nextOf (step b)).map (·.halted) = some true) ∧
    (c.halted = false ∧ (nextOf (step c)).map (·.halted) = some true) := by decide

theorem witness_StepKeepsTheConfiguration : ∃ t, step (midRun [.rxwStep yes]) = .next t := ⟨_, rfl⟩

theorem witness_OnlyTxCompleteNotifies :
    let s := { idleWith [.txComplete] with env := envFifo [entry1], waiting := { rxw := false, txw := true } }
    s.notify.get .txw = false ∧ (nextOf (step s)).map (fun t => t.notify.get .txw) = some true := by decide

/-- A step that changes the drop count, and one that changes the error count. -/
theorem witness_OnlyTheListedWritersChangeTheCounters :
    let a := { idleWith [.txwStep yes] with txw := .bus (.bus frame1) (.bs5c 0) }
    let b := idleWith [.busError .genericError none .eq]
    (nextOf (step a)).map (·.dropCount) = some 1 ∧ a.dropCount = 0 ∧ (nextOf (step b)).map (·.errCount) = some 1 ∧ b.errCount = 0 := by
  decide

/-- One step for each way a queue grows or shrinks. -/
theorem witness_QueuesAreFirstInFirstOut :
    (nextOf (step (idleWith [.submitIsr (.bus frame1)]))).map (·.outQ) = some [.bus frame1] ∧
    (nextOf (step { idleWith [.submitEnqueue 0] with submitting := [.bus frame1] })).map (·.outQ) = some [.bus frame1] ∧
    (nextOf (step { idleWith [.txwStep yes] with outQ := [.bus frame1, .plain .openChannel] })).map (·.outQ) =
      some [.plain .openChannel] ∧
    (nextOf (step (idleWith [.serLine line1]))).map (·.inQ) = some [fromSerial (.bus frame1)] ∧
    (nextOf (step (idleWith [.rxFrame .fifo0 rxHeader1 [0xDE, 0xAD]]))).map (·.inQ) = some [{ frame := .bus frame1, origin := .bus }] ∧
    (nextOf (step { idleWith [.rxwStep yes] with inQ := [fromSerial (.bus frame1)] })).map (·.inQ) = some [] := by decide

theorem witness_PhasesChangeInTheirOwnSteps :
    (nextOf (step (midRun [.txwStep yes]))).map (·.txw) = some (.bus (.bus frame1) (.bs6 header1)) ∧
    (midRun [.txwStep yes]).txw ≠ .bus (.bus frame1) (.bs6 header1) := by decide

end Sys2Proof.Tests
end

section
/-! What the phase writes leave unchanged, and which writes they absorb: a phase write followed by another of the same worker is the
last one. -/

namespace Sys2Proof.Machine

variable (w : Worker) (F : Frame) (s : State)

/-! ## The configuration and the environment under a phase write -/

@[simp] theorem setBus_cfg (p : BusPhase) : (setBus w F p s).cfg = s.cfg := by cases w <;> rfl
@[simp] theorem setUsb_cfg (p : UsbPhase) : (setUsb w F p s).cfg = s.cfg := by cases w <;> rfl
@[simp] theorem exitBus_cfg : (exitBus w F s).cfg = s.cfg := by cases w <;> rfl
@[simp] theorem exitUsb_cfg : (exitUsb w F s).cfg = s.cfg := by cases w <;> rfl
@[simp] theorem setUsb_env (p : UsbPhase) : (setUsb w F p s).env = s.env := by cases w <;> rfl

/-! ## Phase writes of USB forwarding that the next one absorbs -/

@[simp] theorem setUsb_setUsb (p q : UsbPhase) : setUsb w F q (setUsb w F p s) = setUsb w F q s := by cases w <;> rfl
@[simp] theorem exitUsb_setUsb (p : UsbPhase) : exitUsb w F (setUsb w F p s) = exitUsb w F s := by cases w <;> rfl

@[simp] theorem exitUsb_usbQueue_setUsb (p : UsbPhase) (bytes : List Byte) :
    exitUsb w F (usbQueue bytes (setUsb w F p s)) = exitUsb w F (usbQueue bytes s) := by cases w <;> rfl

end Sys2Proof.Machine
end

section
/-! The configuration is fixed for a run (R29): no operation writes it, hence no step does. And the values of R31. -/

namespace Sys2Proof.Machine

/-! ## The operations -/

@[simp] theorem deliver_cfg (F : Frame) (o : Origin) (s : State) : (deliver F o s).cfg = s.cfg := by
  rcases deliver_cases F o s with ⟨-, h⟩ | ⟨-, -, h⟩ | ⟨-, -, h⟩ <;> simp [h]

@[simp] theorem submitCall_cfg (F : Frame) (s : State) : (submitCall F s).cfg = s.cfg := by
  rcases submitCall_cases F s with ⟨-, h⟩ | ⟨-, h⟩ <;> simp [h]

@[simp] theorem submitEnqueue_cfg (k : Nat) (s : State) : (submitEnqueue k s).cfg = s.cfg := by
  rcases submitEnqueue_cases k s with ⟨F, -, -, h⟩ | ⟨-, h⟩ <;> simp [h]

@[simp] theorem submitFromIsr_cfg (F : Frame) (s : State) : (submitFromIsr F s).cfg = s.cfg := by
  rcases submitFromIsr_cases F s with ⟨-, h⟩ | ⟨-, -, h⟩ | ⟨-, -, h⟩ <;> simp [h]

@[simp] theorem construct_cfg (s : State) : (construct s).cfg = s.cfg := by
  rcases construct_cases s with ⟨-, h⟩ | ⟨-, -, h⟩ | ⟨-, -, h⟩ <;> simp [h]

@[simp] theorem hwSubmit_cfg (h : TxHeader) (bytes : List Byte) (s : State) : (hwSubmit h bytes s).cfg = s.cfg := rfl

@[simp] theorem usbQueue_cfg (bytes : List Byte) (s : State) : (usbQueue bytes s).cfg = s.cfg := rfl

/-! ## The handlers -/

@[simp] theorem rxIsr_cfg (fifo : RxFifo) (hd : RxHeader) (bytes : List Byte) (s : State) : (rxIsr fifo hd bytes s).cfg = s.cfg := by
  rcases rxIsr_cases fifo hd bytes s with ⟨-, h⟩ | ⟨F, -, h⟩ <;> simp [h]

@[simp] theorem wakeOne_cfg (s : State) : (wakeOne s).cfg = s.cfg := by
  rcases wakeOne_cases s with ⟨-, h⟩ | ⟨-, -, h⟩ | ⟨-, -, h⟩ <;> simp [h]

@[simp] theorem txcIsr_cfg (s : State) : (txcIsr s).cfg = s.cfg := by simp [txcIsr]

theorem errIsr_keeps_cfg {inflight : Option Nat} {post : BerrReading} {s t : State} (h : errIsr inflight post s = .next t) :
    t.cfg = s.cfg := by
  rcases errIsr_next h with ⟨-, rfl⟩ | ⟨-, -, rfl⟩
  · rfl
  · simp [errTrip_eq]

theorem completeTx_keeps_cfg {s t : State} (h : completeTx s = .next t) : t.cfg = s.cfg := by
  obtain ⟨e, rest, -, ⟨-, rfl⟩ | ⟨-, rfl⟩⟩ := completeTx_next h
  · simp
  · rfl

/-! ## The workers -/

/-- Every branch of the flow-control machine is a phase write over at most one write of another field. -/
theorem busStep_keeps_cfg {w : Worker} {F : Frame} {p : BusPhase} {a : Answers} {s t : State} (h : busStep w F p a s = .next t) :
    t.cfg = s.cfg := by
  rcases busStep_next h with ⟨-, -, rfl⟩ | ⟨-, -, rfl⟩ | ⟨d, -, rfl⟩ | ⟨-, -, rfl⟩ | ⟨hd, -, -, rfl⟩ | ⟨hd, -, -, rfl⟩ |
    ⟨hd, -, -, rfl⟩ | ⟨hd, -, rfl⟩ | ⟨hd, -, -, rfl⟩ | ⟨hd, -, -, rfl⟩ | ⟨-, -, rfl⟩ | ⟨-, -, rfl⟩ | ⟨d, -, rfl⟩ |
    ⟨hd, -, -, rfl⟩ | ⟨hd, -, -, -, -, rfl⟩
  all_goals simp

@[simp] theorem usbAttempt_cfg (w : Worker) (F : Frame) (bytes : List Byte) (left : Nat) (a : Answers) (s : State) :
    (usbAttempt w F bytes left a s).cfg = s.cfg := by
  rcases usbAttempt_cases w F bytes left a s with ⟨-, h⟩ | ⟨r, -, -, h⟩ | ⟨-, -, -, h⟩ | ⟨-, -, -, h⟩ <;> simp [h]

theorem usbStep_keeps_cfg {w : Worker} {F : Frame} {p : UsbPhase} {a : Answers} {s t : State} (h : usbStep w F p a s = .next t) :
    t.cfg = s.cfg := by
  rcases usbStep_next h with ⟨-, -, rfl⟩ | ⟨bytes, -, -, -, rfl⟩ | ⟨bytes, -, rfl⟩ | ⟨bytes, left, -, rfl⟩ | ⟨bytes, left, -, rfl⟩
  all_goals simp

theorem txwStep_keeps_cfg {a : Answers} {s t : State} (h : txwStep a s = .next t) : t.cfg = s.cfg := by
  rcases txwStep_next h with ⟨-, -, rfl⟩ | ⟨F, rest, -, -, rfl⟩ | ⟨F, -, -, rfl⟩ | ⟨F, -, -, rfl⟩ | ⟨F, p, -, h⟩ | ⟨F, p, -, h⟩
  · rfl
  · rfl
  · rfl
  · rfl
  · exact busStep_keeps_cfg h
  · exact usbStep_keeps_cfg h

theorem rxwStep_keeps_cfg {a : Answers} {s t : State} (h : rxwStep a s = .next t) : t.cfg = s.cfg := by
  rcases rxwStep_next h with ⟨-, -, rfl⟩ | ⟨x, rest, -, -, rfl⟩ | ⟨x, -, -, -, rfl⟩ | ⟨x, -, -, -, rfl⟩ | ⟨x, -, -, rfl⟩ |
    ⟨F, p, -, h⟩ | ⟨F, p, -, h⟩ | ⟨F, -, rfl⟩
  · rfl
  · rfl
  · rfl
  · rfl
  · rfl
  · exact busStep_keeps_cfg h
  · exact usbStep_keeps_cfg h
  · rfl

/-! ## The moves -/

theorem exec_keeps_cfg {i : Instr} {s t : State} (h : exec i s = .next t) : t.cfg = s.cfg := by
  rcases exec_next h with ⟨e, -, -, rfl⟩ | ⟨-, -, rfl⟩ | ⟨-, rfl⟩
  · rfl
  · exact deliver_cfg i.frame .serial s
  · rfl

theorem runEvent_keeps_cfg {e : Event} {s t : State} (h : runEvent e s = .next t) : t.cfg = s.cfg := by
  rcases runEvent_next h with ⟨buf, -, rfl⟩ | ⟨fifo, hd, bytes, -, -, rfl⟩ | ⟨-, h⟩ | ⟨v, sel, post, -, -, h⟩ | ⟨b, -, rfl⟩ |
    ⟨-, rfl⟩ | ⟨a, -, -, h⟩ | ⟨a, -, -, h⟩ | ⟨F, -, -, rfl⟩ | ⟨k, -, -, rfl⟩ | ⟨F, -, -, rfl⟩ | ⟨-, rfl⟩ | ⟨-, rfl⟩ | ⟨-, rfl⟩
  · rfl
  · exact rxIsr_cfg fifo hd bytes s
  · exact completeTx_keeps_cfg h
  · exact errIsr_keeps_cfg h
  · rfl
  · rfl
  · exact txwStep_keeps_cfg h
  · exact rxwStep_keeps_cfg h
  · exact submitCall_cfg F s
  · exact submitEnqueue_cfg k s
  · exact submitFromIsr_cfg F s
  · exact construct_cfg s
  · exact restart_cfg s
  · rfl

/-- Settles O55: a step is no move, a serial line executed or lost, or another move, and none of these writes the configuration. -/
theorem stepKeepsTheConfiguration : Obligations.StepKeepsTheConfiguration := by
  intro s t h
  rcases step_next h with ⟨-, rfl⟩ | ⟨buf, rest, i, -, -, -, -, -, h⟩ | ⟨buf, rest, -, -, rfl⟩ | ⟨e, rest, -, -, h⟩
  · rfl
  · exact (exec_keeps_cfg h).trans (s.withSchedule_cfg rest)
  · rfl
  · exact (runEvent_keeps_cfg h).trans (s.withSchedule_cfg rest)

/-- Settles O32: each value of R31 is the field of `State.reset` as written. -/
theorem resetIsTheTable : Obligations.ResetIsTheTable :=
  ⟨rfl, rfl, rfl, rfl, rfl, rfl, rfl, rfl, rfl, rfl, rfl, rfl, rfl, rfl⟩

end Sys2Proof.Machine
end

section
/-! USB forwarding as equations (R220 to R224): what each phase does, from the answer of encode and of the transport. -/

namespace Sys2Proof

/-! ## Encode into a buffer, from the line -/

/-- The sizing function gives the length of the line that encode writes (R117). -/
theorem size_of_encodeFrame {cfg : Config} {F : Frame} {bytes : List Byte} (h : encodeFrame cfg F = some bytes) :
    size cfg F = some bytes.length := by
  cases F with
  | bus f =>
    by_cases hf : f.wf cfg = true
    · obtain ⟨-, -, -, -, hlen⟩ := (busFrame_wf_iff cfg f).1 hf
      simp only [encodeFrame, hf, if_true, Option.some.injEq] at h
      subst h
      cases hc : f.cmd <;> simp [size, hc, FrameCmd.isRtr, hlen] <;> omega
    · simp [encodeFrame, hf] at h
  | value c v =>
    simp only [encodeFrame, Option.map_eq_some_iff] at h
    obtain ⟨b, -, rfl⟩ := h
    rfl
  | plain c =>
    simp only [encodeFrame, Option.some.injEq] at h
    subst h
    rfl
  | invalid => cases h

/-- Where encode has a line, the capacity decides between the line and the sentinel (R119). -/
theorem encodeCap_of_encodeFrame {cfg : Config} {F : Frame} {bytes : List Byte} (cap : Nat) (h : encodeFrame cfg F = some bytes) :
    Machine.encodeCap cfg F cap = if cap < bytes.length then .bufTooSmall else .written bytes := by
  simp [Machine.encodeCap, h, size_of_encodeFrame h]

theorem encodeCap_of_encodeFrame_none {cfg : Config} {F : Frame} (cap : Nat) (h : encodeFrame cfg F = none) :
    Machine.encodeCap cfg F cap = .refused := by
  simp [Machine.encodeCap, h]

end Sys2Proof

namespace Sys2Proof.Machine

variable {w : Worker} {F : Frame} {bytes : List Byte} {left : Nat} {a : Answers} {s : State}

/-! ## US1 (R220) -/

theorem stepUs1_disconnected (hc : s.env.connected = false) : stepUs1 w F s = .next (exitUsb w F s) := by
  simp [stepUs1, hc]

theorem stepUs1_unencodable (hc : s.env.connected = true) (he : encodeFrame s.cfg F = none) :
    stepUs1 w F s = .refused .encodePrecondition := by
  simp [stepUs1, hc, encodeCap_of_encodeFrame_none _ he]

theorem stepUs1_fits (hc : s.env.connected = true) (he : encodeFrame s.cfg F = some bytes) (hl : bytes.length ≤ s.cfg.usbBufSize) :
    stepUs1 w F s = .next (setUsb w F (.us2 bytes) s) := by
  simp [stepUs1, hc, encodeCap_of_encodeFrame _ he, Nat.not_lt.2 hl]

theorem stepUs1_tooLong (hc : s.env.connected = true) (he : encodeFrame s.cfg F = some bytes) (hl : s.cfg.usbBufSize < bytes.length) :
    stepUs1 w F s = .refused .usbBufTooSmall := by
  simp [stepUs1, hc, encodeCap_of_encodeFrame _ he, hl]

/-! ## The attempts (R221, R223) -/

theorem usbAttempt_accepted (ha : a.usbAccepts = true) :
    usbAttempt w F bytes left a s = exitUsb w F (usbQueue bytes s) := by
  simp [usbAttempt, ha]

theorem usbAttempt_refused_succ (ha : a.usbAccepts = false) :
    usbAttempt w F bytes (left + 1) a s = setUsb w F (.us3 bytes left) s := by
  simp [usbAttempt, ha]

/-- The last refusal drops the Frame; only the log tells, if the rate limiter passes the warning. -/
theorem usbAttempt_refused_zero (ha : a.usbAccepts = false) :
    usbAttempt w F bytes 0 a s =
      exitUsb w F { s with log := if a.warnPasses then s.log ++ [.usbBusy bytes.dropLast] else s.log } := by
  cases hw : a.warnPasses <;> simp [usbAttempt, ha, hw, State.logged]

/-- An attempt ends in a phase write, so the phase it starts from leaves no trace. -/
theorem usbAttempt_setUsb (p : UsbPhase) : usbAttempt w F bytes left a (setUsb w F p s) = usbAttempt w F bytes left a s := by
  cases ha : a.usbAccepts with
  | true => simp [usbAttempt_accepted ha]
  | false =>
    cases left with
    | succ r => simp [usbAttempt_refused_succ ha]
    | zero =>
      rw [usbAttempt_refused_zero ha, usbAttempt_refused_zero ha]
      cases w <;> rfl

/-! ## One step of a worker in USB forwarding -/

/-- The first attempt and the retries are one operation, with all retries left after the first. -/
theorem step_usbAttempt {p : UsbPhase} (a : Answers) (rest : List Event) (hr : s.running)
    (hp : (p = .us2 bytes ∧ left = s.cfg.usbRetries) ∨ p = .us4 bytes left) :
    step (setUsb w F p (s.withSchedule (workerStep w a :: rest))) = .next (usbAttempt w F bytes left a (s.withSchedule rest)) := by
  rw [step_setUsb s w F p a rest hr, ← usbAttempt_setUsb p]
  rcases hp with ⟨rfl, rfl⟩ | rfl
  · simp [usbStep, stepUs2]
  · rfl

/-- Settles O38: each clause is the equation of the worker's phase, from the state whose phase it is. -/
theorem usbForwardingSteps : Obligations.UsbForwardingSteps := by
  intro s w F bytes a rest hr
  have us1 : step (setUsb w F .us1 (s.withSchedule (workerStep w a :: rest))) = stepUs1 w F (setUsb w F .us1 (s.withSchedule rest)) :=
    step_setUsb s w F .us1 a rest hr
  refine ⟨fun hc => ?_, fun hc he => ?_, fun hc he hl => ?_, fun hc he hl => ?_, fun p left hp => ⟨fun ha => ?_, fun r ha hl => ?_,
    fun ha hl => ?_⟩, fun left => ?_⟩
  · rw [us1, stepUs1_disconnected (by simpa using hc), exitUsb_setUsb]
  · exact us1.trans (stepUs1_unencodable (by simpa using hc) (by simpa using he))
  · rw [us1, stepUs1_fits (by simpa using hc) (by simpa using he) (by simpa using hl), setUsb_setUsb]
  · exact us1.trans (stepUs1_tooLong (by simpa using hc) (by simpa using he) (by simpa using hl))
  · rw [step_usbAttempt a rest hr hp, usbAttempt_accepted ha]
    rfl
  · subst hl
    rw [step_usbAttempt a rest hr hp, usbAttempt_refused_succ ha]
  · subst hl
    rw [step_usbAttempt a rest hr hp, usbAttempt_refused_zero ha]
    rfl
  · rw [step_setUsb s w F _ a rest hr]
    simp [usbStep, stepUs3]

end Sys2Proof.Machine
end

section
/-! What one step can do to a state, by the data it touches: the queues, the workers' phases and what rules their bounds
(`SameData`), and with them the counters and the notification slots (`Aside`). `Transition` lists the ways once; a whole-machine rule is a
case split on it. -/

namespace Sys2Proof.Machine

/-! ## What a step may leave unchanged -/

/-- The queues, the waiting producers, the phases, the construction and the moves to come are the same, and the hardware FIFO is not above
its depth unless it was. -/
structure SameData (s t : State) : Prop where
  cfg : t.cfg = s.cfg
  outQ : t.outQ = s.outQ
  inQ : t.inQ = s.inQ
  submitting : t.submitting = s.submitting
  txw : t.txw = s.txw
  rxw : t.rxw = s.rxw
  constructed : t.constructed = s.constructed
  serialCallback : t.serialCallback = s.serialCallback
  schedule : t.schedule = s.schedule
  fifo : s.env.txFifo.length ≤ s.cfg.txFifoDepth → t.env.txFifo.length ≤ s.cfg.txFifoDepth

/-- The same data, the same counters and the same notification slots: a step that only answers, logs, halts or moves the environment. -/
structure Aside (s t : State) : Prop extends SameData s t where
  dropCount : t.dropCount = s.dropCount
  errCount : t.errCount = s.errCount
  notify : t.notify = s.notify

namespace Aside

theorem refl (s : State) : Aside s s := ⟨⟨rfl, rfl, rfl, rfl, rfl, rfl, rfl, rfl, rfl, id⟩, rfl, rfl, rfl⟩

variable (s : State)

theorem logged (e : LogEvent) : Aside s (s.logged e) := { refl s with }
theorem withHalted (b : Bool) : Aside s (s.withHalted b) := { refl s with }
theorem withRet (r : CallResult) : Aside s (s.withRet r) := { refl s with }
theorem withConnected (b : Bool) : Aside s (s.withConnected b) := { refl s with }
theorem withUsbOut (l : List (List Byte)) : Aside s (s.withUsbOut l) := { refl s with }
theorem withWaiting (w : Worker) (b : Bool) : Aside s (s.withWaiting w b) := { refl s with }
theorem withTxFifo {l : List HwEntry} (h : s.env.txFifo.length ≤ s.cfg.txFifoDepth → l.length ≤ s.cfg.txFifoDepth) :
    Aside s (s.withTxFifo l) := { refl s with fifo := h }

end Aside

namespace SameData

theorem trans {s t u : State} (h : SameData s t) (g : SameData t u) : SameData s u where
  cfg := g.cfg.trans h.cfg
  outQ := g.outQ.trans h.outQ
  inQ := g.inQ.trans h.inQ
  submitting := g.submitting.trans h.submitting
  txw := g.txw.trans h.txw
  rxw := g.rxw.trans h.rxw
  constructed := g.constructed.trans h.constructed
  serialCallback := g.serialCallback.trans h.serialCallback
  schedule := g.schedule.trans h.schedule
  fifo := fun hs => h.cfg ▸ g.fifo (h.cfg.symm ▸ h.fifo hs)

variable (s : State)

theorem withDrop (n : Nat) : SameData s (s.withDrop n) := { Aside.refl s with }
theorem withErr (n : Nat) : SameData s (s.withErr n) := { Aside.refl s with }
theorem withNotify (w : Worker) (b : Bool) : SameData s (s.withNotify w b) := { Aside.refl s with }

end SameData

end Sys2Proof.Machine
end

section
/-! The handlers and the shared machines of the workers, by what they touch. -/

namespace Sys2Proof.Machine

/-! ## The handlers -/

theorem wakeOne_sameData (s : State) : SameData s (wakeOne s) := by
  rcases wakeOne_cases s with ⟨-, h⟩ | ⟨-, -, h⟩ | ⟨-, -, h⟩ <;> rw [h]
  · exact (Aside.withWaiting s _ _).trans (.withNotify _ _ _)
  · exact (Aside.withWaiting s _ _).trans (.withNotify _ _ _)
  · exact (Aside.refl s).toSameData

theorem txcIsr_sameData (s : State) : SameData s (txcIsr s) :=
  ((SameData.withDrop s 0).trans (.withErr _ 0)).trans (wakeOne_sameData _)

/-- A completion sets the slot of a worker that was marked waiting, and of no other (R255). -/
theorem txcIsr_notifies {s : State} {w : Worker} (hs : s.notify.get w = false) (ht : (txcIsr s).notify.get w = true) :
    s.waiting.get w = true := by
  rcases wakeOne_cases ((s.withDrop 0).withErr 0) with ⟨hw, h⟩ | ⟨-, hw, h⟩ | ⟨-, -, h⟩
  · cases w <;> simp_all [txcIsr]
  · cases w <;> simp_all [txcIsr]
  · simp_all [txcIsr]

/-- The completion takes a slot first, so the FIFO only shrinks (R268). -/
theorem completed_sameData {s : State} {slot : HwEntry} {l : List HwEntry} (hf : s.env.txFifo = slot :: l) :
    SameData s (txcIsr (s.withTxFifo l)) :=
  (Aside.withTxFifo s (l := l) (by simp only [hf, List.length_cons]; omega)).trans (txcIsr_sameData _)

theorem errIsr_sameData {sel : Option Nat} {post : BerrReading} {s t : State} (h : errIsr sel post s = .next t) : SameData s t := by
  rcases errIsr_next h with ⟨-, rfl⟩ | ⟨-, -, rfl⟩
  · exact .withErr s _
  · rw [errTrip_eq]
    refine (((SameData.withErr s _).trans (.withDrop _ _)).trans (Aside.withTxFifo _ ?_).toSameData).trans (.withErr _ _)
    cases sel with
    | none => simp
    | some k => exact fun hl => (List.length_eraseIdx_le _ _).trans hl

/-- Whatever the reading, the handler trips at or past its threshold only. -/
theorem threshold_le_of_trips {threshold e : Nat} {post : BerrReading} (h : trips threshold e post = true) : threshold ≤ e := by
  cases post with
  | eq => exact (of_decide_eq_true h).ge
  | ge => exact of_decide_eq_true h
  | geReset => exact of_decide_eq_true h

theorem errIsr_dropCount {sel : Option Nat} {post : BerrReading} {s t : State} (h : errIsr sel post s = .next t)
    (hd : t.dropCount ≠ s.dropCount) : s.cfg.errThreshold ≤ s.errCount + 1 := by
  rcases errIsr_next h with ⟨-, rfl⟩ | ⟨ht, -, -⟩
  · exact absurd rfl hd
  · exact threshold_le_of_trips ht

theorem errIsr_notify {sel : Option Nat} {post : BerrReading} {s t : State} (h : errIsr sel post s = .next t) : t.notify = s.notify := by
  rcases errIsr_next h with ⟨-, rfl⟩ | ⟨-, -, rfl⟩
  · rfl
  · simp [errTrip_eq]

/-! ## The counters and the slots under a phase write -/

section
variable (w : Worker) (F : Frame) (s : State)

@[simp] theorem setBus_dropCount (p : BusPhase) : (setBus w F p s).dropCount = s.dropCount := by cases w <;> rfl
@[simp] theorem setBus_errCount (p : BusPhase) : (setBus w F p s).errCount = s.errCount := by cases w <;> rfl
@[simp] theorem setBus_notify (p : BusPhase) : (setBus w F p s).notify = s.notify := by cases w <;> rfl
@[simp] theorem exitBus_dropCount : (exitBus w F s).dropCount = s.dropCount := by cases w <;> rfl
@[simp] theorem exitBus_errCount : (exitBus w F s).errCount = s.errCount := by cases w <;> rfl
@[simp] theorem exitBus_notify : (exitBus w F s).notify = s.notify := by cases w <;> rfl
@[simp] theorem setUsb_dropCount (p : UsbPhase) : (setUsb w F p s).dropCount = s.dropCount := by cases w <;> rfl
@[simp] theorem setUsb_errCount (p : UsbPhase) : (setUsb w F p s).errCount = s.errCount := by cases w <;> rfl
@[simp] theorem setUsb_notify (p : UsbPhase) : (setUsb w F p s).notify = s.notify := by cases w <;> rfl
@[simp] theorem exitUsb_dropCount : (exitUsb w F s).dropCount = s.dropCount := by cases w <;> rfl
@[simp] theorem exitUsb_errCount : (exitUsb w F s).errCount = s.errCount := by cases w <;> rfl
@[simp] theorem exitUsb_notify : (exitUsb w F s).notify = s.notify := by cases w <;> rfl

@[simp] theorem hwSubmit_dropCount (h : TxHeader) (bytes : List Byte) : (hwSubmit h bytes s).dropCount = s.dropCount := rfl
@[simp] theorem hwSubmit_errCount (h : TxHeader) (bytes : List Byte) : (hwSubmit h bytes s).errCount = s.errCount := rfl
@[simp] theorem hwSubmit_notify (h : TxHeader) (bytes : List Byte) : (hwSubmit h bytes s).notify = s.notify := rfl

end

/-! ## The flow-control machine -/

theorem hwFree_ne_zero_iff (s : State) : hwFree s ≠ 0 ↔ s.env.txFifo.length < s.cfg.txFifoDepth := Nat.sub_ne_zero_iff_lt

theorem hwSubmit_sameData {s : State} (hd : TxHeader) (bytes : List Byte) (hf : hwFree s ≠ 0) : SameData s (hwSubmit hd bytes s) :=
  (Aside.withTxFifo s fun _ => by simpa using (hwFree_ne_zero_iff s).1 hf).toSameData

/-- A step of the flow-control machine moves its worker on within it, keeping the header of its Frame, or leaves it; no other data changes. -/
theorem busStep_shape {w : Worker} {F : Frame} {p : BusPhase} {a : Answers} {s t : State} (h : busStep w F p a s = .next t) :
    ∃ s', SameData s s' ∧ ((∃ p', t = setBus w F p' s' ∧ (p.ok F → p'.ok F)) ∨ t = exitBus w F s') := by
  have same : SameData s s := (Aside.refl s).toSameData
  rcases busStep_next h with ⟨rfl, -, rfl⟩ | ⟨rfl, -, rfl⟩ | ⟨d, -, rfl⟩ | ⟨-, -, rfl⟩ | ⟨hd, -, hh, rfl⟩ | ⟨hd, rfl, -, rfl⟩ |
    ⟨hd, rfl, -, rfl⟩ | ⟨hd, rfl, rfl⟩ | ⟨hd, rfl, -, rfl⟩ | ⟨hd, rfl, -, rfl⟩ | ⟨-, -, rfl⟩ | ⟨rfl, -, rfl⟩ | ⟨d, -, rfl⟩ |
    ⟨hd, -, hf, rfl⟩ | ⟨hd, -, -, -, ha, rfl⟩
  · exact ⟨s, same, .inl ⟨_, rfl, id⟩⟩
  · exact ⟨s, same, .inl ⟨_, rfl, id⟩⟩
  · exact ⟨_, .withDrop s _, .inr rfl⟩
  · exact ⟨_, (Aside.logged s _).toSameData, .inr rfl⟩
  · exact ⟨s, same, .inl ⟨_, rfl, fun _ => hh⟩⟩
  · exact ⟨s, same, .inl ⟨_, rfl, id⟩⟩
  · exact ⟨s, same, .inl ⟨_, rfl, id⟩⟩
  · exact ⟨_, (Aside.withWaiting s _ _).toSameData, .inl ⟨_, rfl, id⟩⟩
  · exact ⟨_, .withNotify s _ _, .inl ⟨_, rfl, id⟩⟩
  · exact ⟨s, same, .inl ⟨_, rfl, fun _ => trivial⟩⟩
  · exact ⟨_, .withDrop s _, .inr rfl⟩
  · exact ⟨s, same, .inl ⟨_, rfl, id⟩⟩
  · exact ⟨_, .withDrop s _, .inr rfl⟩
  · exact ⟨_, hwSubmit_sameData hd _ hf, .inr rfl⟩
  · exact ⟨_, (Aside.withTxFifo s fun _ => ha).toSameData, .inr rfl⟩

/-- The phases in which a worker writes the drop count (R17): the breaker's drop and the timeout's. -/
def BusPhase.Counts (p : BusPhase) : Prop := (∃ d, p = .bs1b d) ∨ p = .bs5b ∨ ∃ d, p = .bs5c d

/-- The machine never touches the error count, writes the drop count in its counting phases only, and sets no slot (R208, R212, R214). -/
theorem busStep_counts {w : Worker} {F : Frame} {p : BusPhase} {a : Answers} {s t : State} (h : busStep w F p a s = .next t) :
    t.errCount = s.errCount ∧ (t.dropCount = s.dropCount ∨ p.Counts) ∧
      (t.notify = s.notify ∨ t.notify = s.notify.set w false) := by
  rcases busStep_next h with ⟨rfl, -, rfl⟩ | ⟨rfl, -, rfl⟩ | ⟨d, rfl, rfl⟩ | ⟨rfl, -, rfl⟩ | ⟨hd, rfl, -, rfl⟩ | ⟨hd, rfl, -, rfl⟩ |
    ⟨hd, rfl, -, rfl⟩ | ⟨hd, rfl, rfl⟩ | ⟨hd, rfl, -, rfl⟩ | ⟨hd, rfl, -, rfl⟩ | ⟨rfl, -, rfl⟩ | ⟨rfl, -, rfl⟩ | ⟨d, rfl, rfl⟩ |
    ⟨hd, rfl, -, rfl⟩ | ⟨hd, rfl, -, -, -, rfl⟩
  all_goals simp [BusPhase.Counts]

/-! ## USB forwarding -/

/-- What an encode into a buffer wrote is the Frame's line. -/
theorem encodeFrame_of_written {cfg : Config} {F : Frame} {cap : Nat} {bytes : List Byte} (h : encodeCap cfg F cap = .written bytes) :
    encodeFrame cfg F = some bytes := by
  rcases encodeCap_cases cfg F cap with ⟨need, line, -, hl, ⟨-, hc⟩ | ⟨-, hc⟩⟩ | ⟨-, hc⟩
  · rw [hc] at h
    cases h
  · rw [hc] at h
    cases h
    exact hl
  · rw [hc] at h
    cases h

/-- An attempt leads to the delay with one retry less, or leaves USB forwarding (R221, R223). -/
theorem usbAttempt_shape (w : Worker) (F : Frame) (bytes : List Byte) (left : Nat) (a : Answers) (s : State) : ∃ s', Aside s s' ∧
    ((∃ r, left = r + 1 ∧ usbAttempt w F bytes left a s = setUsb w F (.us3 bytes r) s') ∨
      usbAttempt w F bytes left a s = exitUsb w F s') := by
  rcases usbAttempt_cases w F bytes left a s with ⟨-, h⟩ | ⟨r, -, hl, h⟩ | ⟨-, -, -, h⟩ | ⟨-, -, -, h⟩
  · exact ⟨_, .withUsbOut s _, .inr h⟩
  · exact ⟨s, .refl s, .inl ⟨r, hl, h⟩⟩
  · exact ⟨_, .logged s _, .inr h⟩
  · exact ⟨s, .refl s, .inr h⟩

/-- A step of USB forwarding moves its worker on within it, keeping the line of its Frame, or leaves it; no other data, no counter and no
slot changes. -/
theorem usbStep_shape {w : Worker} {F : Frame} {p : UsbPhase} {a : Answers} {s t : State} (h : usbStep w F p a s = .next t) :
    ∃ s', Aside s s' ∧ ((∃ p', t = setUsb w F p' s' ∧ (p.ok s.cfg F → p'.ok s.cfg F)) ∨ t = exitUsb w F s') := by
  rcases usbStep_next h with ⟨-, -, rfl⟩ | ⟨bytes, -, -, he, rfl⟩ | ⟨bytes, rfl, rfl⟩ | ⟨bytes, left, rfl, rfl⟩ | ⟨bytes, left, rfl, rfl⟩
  · exact ⟨s, .refl s, .inr rfl⟩
  · exact ⟨s, .refl s, .inl ⟨_, rfl, fun _ => encodeFrame_of_written he⟩⟩
  · obtain ⟨s', hs, ⟨r, hl, ht⟩ | ht⟩ := usbAttempt_shape w F bytes s.cfg.usbRetries a s
    · exact ⟨s', hs, .inl ⟨_, ht, fun hp => ⟨hp, by omega⟩⟩⟩
    · exact ⟨s', hs, .inr ht⟩
  · exact ⟨s, .refl s, .inl ⟨_, rfl, id⟩⟩
  · obtain ⟨s', hs, ⟨r, hl, ht⟩ | ht⟩ := usbAttempt_shape w F bytes left a s
    · exact ⟨s', hs, .inl ⟨_, ht, fun hp => ⟨hp.1, by have := hp.2; omega⟩⟩⟩
    · exact ⟨s', hs, .inr ht⟩

/-- USB forwarding touches no counter and no slot. -/
theorem usbStep_counts {w : Worker} {F : Frame} {p : UsbPhase} {a : Answers} {s t : State} (h : usbStep w F p a s = .next t) :
    t.errCount = s.errCount ∧ t.dropCount = s.dropCount ∧ t.notify = s.notify := by
  obtain ⟨s', hs, ⟨p', rfl, -⟩ | rfl⟩ := usbStep_shape h
  · simp [hs.errCount, hs.dropCount, hs.notify]
  · simp [hs.errCount, hs.dropCount, hs.notify]

end Sys2Proof.Machine
end

section
/-! The ways of one step, once: `step_transition` flattens what a step, a move and a command's meaning can do into the cases that the
whole-machine rules split on. -/

namespace Sys2Proof.Machine

/-- What a step answers from `s`: nothing is scheduled; a move that leaves the data aside; an entry appended to a queue or to the producers
that wait; a handler that counts; a worker's own step; or the block built anew. -/
inductive Transition (s : State) : State → Prop
  | still : s.schedule = [] → Transition s s
  | aside {e : Event} {rest : List Event} {t : State} : s.schedule = e :: rest → Aside (s.withSchedule rest) t → Transition s t
  | serialQueued {buf : List Byte} {i : Instr} {rest : List Event} : s.schedule = .serLine buf :: rest → decode s.cfg buf = .instr i →
      (∀ e, i ≠ .invalid e) → s.inQ.length < s.cfg.inQCap →
      Transition s ((s.withSchedule rest).withInQ (s.inQ ++ [{ frame := i.frame, origin := .serial }]))
  | busQueued {fifo : RxFifo} {h : RxHeader} {bytes : List Byte} {F : Frame} {rest : List Event} :
      s.schedule = .rxFrame fifo h bytes :: rest → wrapRx s.cfg h bytes = some F → s.inQ.length < s.cfg.inQCap →
      Transition s ((s.withSchedule rest).withInQ (s.inQ ++ [{ frame := F, origin := .bus }]))
  | completed {slot : HwEntry} {l : List HwEntry} {rest : List Event} : s.schedule = .txComplete :: rest →
      (s.withSchedule rest).env.txFifo = slot :: l →
      Transition s (txcIsr ((s.withSchedule rest).withTxFifo l))
  | busErrored {v : ErrVector} {sel : Option Nat} {post : BerrReading} {rest : List Event} {t : State} :
      s.schedule = .busError v sel post :: rest → errIsr sel (berrReading s.cfg post) (s.withSchedule rest) = .next t → Transition s t
  | submitted {F : Frame} {rest : List Event} : s.schedule = .submitCall F :: rest → F ≠ .invalid →
      Transition s ((s.withSchedule rest).withSubmitting (s.submitting ++ [F]))
  | enqueued {k : Nat} {F : Frame} {rest : List Event} : s.schedule = .submitEnqueue k :: rest → s.submitting[k]? = some F →
      s.outQ.length < s.cfg.outQCap →
      Transition s ((((s.withSchedule rest).withOutQ (s.outQ ++ [F])).withSubmitting (s.submitting.eraseIdx k)).withRet .accepted)
  | isrEnqueued {F : Frame} {rest : List Event} : s.schedule = .submitIsr F :: rest → F ≠ .invalid → s.outQ.length < s.cfg.outQCap →
      Transition s (((s.withSchedule rest).withOutQ (s.outQ ++ [F])).withRet .accepted)
  | txwStepped {a : Answers} {rest : List Event} {t : State} : s.schedule = .txwStep a :: rest →
      txwStep a (s.withSchedule rest) = .next t → Transition s t
  | rxwStepped {a : Answers} {rest : List Event} {t : State} : s.schedule = .rxwStep a :: rest →
      rxwStep a (s.withSchedule rest) = .next t → Transition s t
  | constructed {rest : List Event} : s.schedule = .construct :: rest → Transition s (constructFresh (s.withSchedule rest))
  | restarted {rest : List Event} : s.schedule = .restart :: rest → Transition s (restart (s.withSchedule rest))

variable {s t : State} {rest : List Event}

/-- A decoded line is logged and rejected, queued, lost on a halted block, or halts the block (R114, R184, R186). -/
theorem transition_of_exec {buf : List Byte} {i : Instr} (hs : s.schedule = .serLine buf :: rest) (hd : decode s.cfg buf = .instr i)
    (h : exec i (s.withSchedule rest) = .next t) : Transition s t := by
  rcases exec_next h with ⟨e, -, -, rfl⟩ | ⟨-, hi, rfl⟩ | ⟨-, rfl⟩
  · exact .aside hs (.logged _ _)
  · rcases deliver_cases i.frame .serial (s.withSchedule rest) with ⟨hF, -⟩ | ⟨-, hr, ht⟩ | ⟨-, -, ht⟩
    · exact absurd hF (frame_ne_invalid i hi)
    · exact ht ▸ .serialQueued hs hd hi hr
    · exact ht ▸ .aside hs (.withHalted _ _)
  · exact .aside hs (.refl _)

/-- A received frame is queued or halts the block (R250, R254). -/
theorem transition_of_rxIsr {fifo : RxFifo} {hd : RxHeader} {bytes : List Byte} (hs : s.schedule = .rxFrame fifo hd bytes :: rest) :
    Transition s (rxIsr fifo hd bytes (s.withSchedule rest)) := by
  rcases rxIsr_cases fifo hd bytes (s.withSchedule rest) with ⟨-, ht⟩ | ⟨F, hw, ht⟩
  · exact ht ▸ .aside hs (.withHalted _ _)
  · rw [ht]
    rcases deliver_cases F .bus (s.withSchedule rest) with ⟨-, ht⟩ | ⟨-, hr, ht⟩ | ⟨-, -, ht⟩
    · rw [ht]
      exact .aside hs (.refl _)
    · exact ht ▸ .busQueued hs hw hr
    · exact ht ▸ .aside hs (.withHalted _ _)

/-- A completion runs its handler, or on a halted block only takes its slot (R268). -/
theorem transition_of_completeTx (hs : s.schedule = .txComplete :: rest) (h : completeTx (s.withSchedule rest) = .next t) :
    Transition s t := by
  obtain ⟨slot, l, hf, ⟨-, rfl⟩ | ⟨-, rfl⟩⟩ := completeTx_next h
  · exact .completed hs hf
  · exact .aside hs (.withTxFifo _ fun hl => by simp only [hf, List.length_cons] at hl; omega)

theorem transition_of_submitCall {F : Frame} (hs : s.schedule = .submitCall F :: rest) :
    Transition s (submitCall F (s.withSchedule rest)) := by
  rcases submitCall_cases F (s.withSchedule rest) with ⟨-, ht⟩ | ⟨hF, ht⟩
  · exact ht ▸ .aside hs (.withRet _ _)
  · exact ht ▸ .submitted hs hF

theorem transition_of_submitEnqueue {k : Nat} (hs : s.schedule = .submitEnqueue k :: rest) :
    Transition s (submitEnqueue k (s.withSchedule rest)) := by
  rcases submitEnqueue_cases k (s.withSchedule rest) with ⟨F, hk, hr, ht⟩ | ⟨-, ht⟩
  · exact ht ▸ .enqueued hs hk hr
  · rw [ht]
    exact .aside hs (.refl _)

theorem transition_of_submitFromIsr {F : Frame} (hs : s.schedule = .submitIsr F :: rest) :
    Transition s (submitFromIsr F (s.withSchedule rest)) := by
  rcases submitFromIsr_cases F (s.withSchedule rest) with ⟨-, ht⟩ | ⟨hF, hr, ht⟩ | ⟨-, -, ht⟩
  · exact ht ▸ .aside hs (.withRet _ _)
  · exact ht ▸ .isrEnqueued hs hF hr
  · exact ht ▸ .aside hs (.withHalted _ _)

theorem transition_of_construct (hs : s.schedule = .construct :: rest) : Transition s (construct (s.withSchedule rest)) := by
  rcases construct_cases (s.withSchedule rest) with ⟨-, ht⟩ | ⟨-, -, ht⟩ | ⟨-, -, ht⟩
  · exact ht ▸ .constructed hs
  · exact ht ▸ .aside hs (.withRet _ _)
  · rw [ht]
    exact .aside hs (.refl _)

theorem transition_of_runEvent {e : Event} (hs : s.schedule = e :: rest) (h : runEvent e (s.withSchedule rest) = .next t) :
    Transition s t := by
  rcases runEvent_next h with ⟨buf, rfl, rfl⟩ | ⟨fifo, hd, bytes, rfl, -, rfl⟩ | ⟨rfl, h⟩ | ⟨v, sel, post, rfl, -, h⟩ | ⟨b, rfl, rfl⟩ |
    ⟨rfl, rfl⟩ | ⟨a, rfl, -, h⟩ | ⟨a, rfl, -, h⟩ | ⟨F, rfl, -, rfl⟩ | ⟨k, rfl, -, rfl⟩ | ⟨F, rfl, -, rfl⟩ | ⟨rfl, rfl⟩ | ⟨rfl, rfl⟩ |
    ⟨-, rfl⟩
  · exact .aside hs (.refl _)
  · exact transition_of_rxIsr hs
  · exact transition_of_completeTx hs h
  · exact .busErrored hs h
  · exact .aside hs (.withConnected _ _)
  · exact .aside hs (.refl _)
  · exact .txwStepped hs h
  · exact .rxwStepped hs h
  · exact transition_of_submitCall hs
  · exact transition_of_submitEnqueue hs
  · exact transition_of_submitFromIsr hs
  · exact transition_of_construct hs
  · exact .restarted hs
  · exact .aside hs (.refl _)

theorem step_transition (h : step s = .next t) : Transition s t := by
  rcases step_next h with ⟨hs, rfl⟩ | ⟨buf, rest, i, hs, -, -, -, hd, h⟩ | ⟨buf, rest, hs, -, rfl⟩ | ⟨e, rest, hs, -, h⟩
  · exact .still hs
  · exact transition_of_exec hs hd h
  · exact .aside hs (.refl _)
  · exact transition_of_runEvent hs h

end Sys2Proof.Machine
end

section
/-! The data invariant (R12, R15, R16, R189, R209, R220, R262, R280): a rule for each write of the fields it speaks of, then the workers,
then every step. -/

namespace Sys2Proof.Machine

/-- Settles O48: at reset the queues are empty, both workers are idle and the callback is registered. -/
theorem resetMeetsTheInvariant : Obligations.ResetMeetsTheInvariant where
  outBound := Nat.zero_le _
  inBound := Nat.zero_le _
  outValid := fun _ h => nomatch h
  inValid := fun _ h => nomatch h
  submittingValid := fun _ h => nomatch h
  fifoBound := Nat.zero_le _
  txwOk := trivial
  rxwOk := trivial
  callback := fun _ => rfl

/-! ## The writes -/

namespace State.Inv

variable {s t : State}

theorem of_sameData (h : s.Inv) (d : SameData s t) : t.Inv where
  outBound := by simpa [d.outQ, d.cfg] using h.outBound
  inBound := by simpa [d.inQ, d.cfg] using h.inBound
  outValid := by simpa [d.outQ] using h.outValid
  inValid := by simpa [d.inQ] using h.inValid
  submittingValid := by simpa [d.submitting] using h.submittingValid
  fifoBound := by simpa [d.cfg] using d.fifo h.fifoBound
  txwOk := by simpa [d.txw, d.cfg] using h.txwOk
  rxwOk := by simpa [d.rxw, d.cfg] using h.rxwOk
  callback := by simpa [d.constructed, d.serialCallback] using h.callback

theorem withSchedule (h : s.Inv) (l : List Event) : (s.withSchedule l).Inv := { h with }

theorem withRet (h : s.Inv) (r : CallResult) : (s.withRet r).Inv := h.of_sameData (Aside.withRet s r).toSameData

theorem withOutQ (h : s.Inv) {q : List Frame} (hb : q.length ≤ s.cfg.outQCap) (hv : ∀ F ∈ q, F ≠ .invalid) : (s.withOutQ q).Inv :=
  { h with outBound := hb, outValid := hv }

theorem withInQ (h : s.Inv) {q : List Tagged} (hb : q.length ≤ s.cfg.inQCap) (hv : ∀ x ∈ q, x.frame ≠ .invalid) :
    (s.withInQ q).Inv :=
  { h with inBound := hb, inValid := hv }

theorem withSubmitting (h : s.Inv) {l : List Frame} (hv : ∀ F ∈ l, F ≠ .invalid) : (s.withSubmitting l).Inv :=
  { h with submittingValid := hv }

theorem withTxw (h : s.Inv) {p : TxwPhase} (hp : p.ok s.cfg) : (s.withTxw p).Inv := { h with txwOk := hp }

theorem withRxw (h : s.Inv) {p : RxwPhase} (hp : p.ok s.cfg) : (s.withRxw p).Inv := { h with rxwOk := hp }

/-- A queue gains one entry at its tail while it has room. -/
theorem enqueueOut (h : s.Inv) {F : Frame} (hr : s.outQ.length < s.cfg.outQCap) (hF : F ≠ .invalid) : (s.withOutQ (s.outQ ++ [F])).Inv :=
  h.withOutQ (by simpa using hr) (List.forall_mem_append.2 ⟨h.outValid, by simpa using hF⟩)

theorem enqueueIn (h : s.Inv) {x : Tagged} (hr : s.inQ.length < s.cfg.inQCap) (hx : x.frame ≠ .invalid) : (s.withInQ (s.inQ ++ [x])).Inv :=
  h.withInQ (by simpa using hr) (List.forall_mem_append.2 ⟨h.inValid, by simpa using hx⟩)

/-- What construction and restart build is as empty as the state of reset; the FIFO is the environment's and stays. -/
theorem constructFresh (h : s.Inv) : (constructFresh s).Inv :=
  { resetMeetsTheInvariant with outBound := Nat.zero_le _, inBound := Nat.zero_le _, fifoBound := h.fifoBound }

theorem restart (h : s.Inv) : (restart s).Inv :=
  { h.constructFresh with callback := fun hc => nomatch hc }

/-! ## The workers -/

variable {w : Worker} {F : Frame} {a : Answers}

theorem setBus (h : s.Inv) {p : BusPhase} (hF : transmittable F = true) (hp : p.ok F) : (setBus w F p s).Inv := by
  cases w
  · exact h.withTxw ⟨hF, hp⟩
  · exact h.withRxw ⟨hF, hp⟩

theorem setUsb (h : s.Inv) {p : UsbPhase} (hF : transmittable F = true) (hp : p.ok s.cfg F) : (setUsb w F p s).Inv := by
  cases w
  · exact h.withTxw ⟨hF, hp⟩
  · exact h.withRxw ⟨hF, hp⟩

theorem exitBus (h : s.Inv) (hF : transmittable F = true) : (exitBus w F s).Inv := by
  cases w
  · exact h.withTxw ⟨hF, trivial⟩
  · exact h.withRxw trivial

theorem exitUsb (h : s.Inv) (hF : transmittable F = true) : (exitUsb w F s).Inv := by
  cases w
  · exact h.withTxw trivial
  · exact h.withRxw hF

theorem busStep (h : s.Inv) {p : BusPhase} (hF : transmittable F = true) (hp : p.ok F) (hstep : busStep w F p a s = .next t) : t.Inv := by
  obtain ⟨s', hs, ⟨p', rfl, hp'⟩ | rfl⟩ := busStep_shape hstep
  · exact (h.of_sameData hs).setBus hF (hp' hp)
  · exact (h.of_sameData hs).exitBus hF

theorem usbStep (h : s.Inv) {p : UsbPhase} (hF : transmittable F = true) (hp : p.ok s.cfg F) (hstep : usbStep w F p a s = .next t) :
    t.Inv := by
  obtain ⟨s', hs, ⟨p', rfl, hp'⟩ | rfl⟩ := usbStep_shape hstep
  · exact (h.of_sameData hs.toSameData).setUsb hF (hs.cfg.symm ▸ hp' hp)
  · exact (h.of_sameData hs.toSameData).exitUsb hF

theorem txwStep (h : s.Inv) (hstep : txwStep a s = .next t) : t.Inv := by
  have hok := h.txwOk
  rcases txwStep_next hstep with ⟨-, -, rfl⟩ | ⟨F, rest, -, hq, rfl⟩ | ⟨F, -, hF, rfl⟩ | ⟨F, -, -, rfl⟩ | ⟨F, p, hp, hb⟩ | ⟨F, p, hp, hu⟩
  · exact h
  · have hv := h.outValid
    have hb := h.outBound
    rw [hq] at hv hb
    obtain ⟨hF, hrest⟩ := List.forall_mem_cons.1 hv
    exact (h.withOutQ ((Nat.le_succ _).trans hb) hrest).withTxw hF
  · exact h.withTxw ⟨hF, trivial⟩
  · exact h.withTxw trivial
  · rw [hp] at hok
    exact h.busStep hok.1 hok.2 hb
  · rw [hp] at hok
    exact h.usbStep hok.1 hok.2 hu

theorem rxwStep (h : s.Inv) (hstep : rxwStep a s = .next t) : t.Inv := by
  have hok := h.rxwOk
  rcases rxwStep_next hstep with ⟨-, -, rfl⟩ | ⟨x, rest, -, hq, rfl⟩ | ⟨x, -, hx, -, rfl⟩ | ⟨x, -, hx, -, rfl⟩ | ⟨x, -, -, rfl⟩ |
    ⟨F, p, hp, hb⟩ | ⟨F, p, hp, hu⟩ | ⟨F, -, rfl⟩
  · exact h
  · have hv := h.inValid
    have hb := h.inBound
    rw [hq] at hv hb
    obtain ⟨hx, hrest⟩ := List.forall_mem_cons.1 hv
    exact (h.withInQ ((Nat.le_succ _).trans hb) hrest).withRxw hx
  · exact h.withRxw ⟨hx, trivial⟩
  · exact h.withRxw ⟨hx, trivial⟩
  · exact h.withRxw trivial
  · rw [hp] at hok
    exact h.busStep hok.1 hok.2 hb
  · rw [hp] at hok
    exact h.usbStep hok.1 hok.2 hu
  · exact ((h.of_sameData (Aside.logged s _).toSameData).of_sameData (.withDrop _ 0)).withRxw trivial

end State.Inv

/-- Wrap never answers Invalid (R111). -/
theorem wrapRx_ne_invalid {cfg : Config} {h : RxHeader} {bytes : List Byte} {F : Frame} (hw : wrapRx cfg h bytes = some F) :
    F ≠ .invalid := by
  obtain ⟨-, -, rfl⟩ := wrapRx_some hw
  simp

/-- Settles O49: each way of a step keeps the invariant by the rule of its writes. -/
theorem stepKeepsTheInvariant : Obligations.StepKeepsTheInvariant := by
  intro s t h hstep
  cases step_transition hstep with
  | still _ => exact h
  | aside _ d => exact (h.withSchedule _).of_sameData d.toSameData
  | serialQueued _ _ hi hr => exact (h.withSchedule _).enqueueIn hr (frame_ne_invalid _ hi)
  | busQueued _ hw hr => exact (h.withSchedule _).enqueueIn hr (wrapRx_ne_invalid hw)
  | completed _ hf => exact (h.withSchedule _).of_sameData (completed_sameData hf)
  | busErrored _ he => exact (h.withSchedule _).of_sameData (errIsr_sameData he)
  | submitted _ hF => exact (h.withSchedule _).withSubmitting (List.forall_mem_append.2 ⟨h.submittingValid, by simpa using hF⟩)
  | @enqueued _ _ rest _ hk hr =>
    have hF := h.submittingValid _ (List.mem_of_getElem? hk)
    exact (((h.withSchedule rest).enqueueOut hr hF).withSubmitting fun G hG => h.submittingValid G (List.mem_of_mem_eraseIdx hG)).withRet _
  | @isrEnqueued _ rest _ hF hr => exact ((h.withSchedule rest).enqueueOut hr hF).withRet _
  | txwStepped _ hw => exact (h.withSchedule _).txwStep hw
  | rxwStepped _ hw => exact (h.withSchedule _).rxwStep hw
  | constructed _ => exact (h.withSchedule _).constructFresh
  | restarted _ => exact (h.withSchedule _).restart

end Sys2Proof.Machine
end

section
/-! What decode answers meets R13 and its table (R13, R105 to R107, R160), path by path. -/

namespace Sys2Proof

/-- Either the answer is Invalid or its command is well-formed. -/
def Decoded.WfOrInvalid (cfg : Config) (d : Decoded) : Prop := ∀ i, d = .instr i → (∀ e, i ≠ .invalid e) → i.wf cfg = true

variable {cfg : Config}

theorem wfOrInvalid_refuse (r : DecodeRefusal) : (Decoded.refuse r).WfOrInvalid cfg := fun _ h => nomatch h

theorem wfOrInvalid_invalid (e : DecodeError) : (Decoded.instr (.invalid e)).WfOrInvalid cfg := by
  intro i h hi
  cases h
  exact absurd rfl (hi e)

theorem wfOrInvalid_of_wf {i : Instr} (hw : i.wf cfg = true) : (Decoded.instr i).WfOrInvalid cfg := by
  intro j h _
  cases h
  exact hw

/-- The excess check passes its command on or answers nothing valid (R109). -/
theorem wfOrInvalid_checkExcess {i : Instr} (pos m : Nat) (hw : i.wf cfg = true) : (checkExcess cfg pos m i).WfOrInvalid cfg := by
  unfold checkExcess
  split
  · split
    · exact wfOrInvalid_refuse _
    · exact wfOrInvalid_invalid _
    · exact wfOrInvalid_of_wf hw
  · exact wfOrInvalid_of_wf hw

theorem mkInstr_wf {c : FrameCmd} {id : CanId} {len : Nat} {data : List Byte} (hid : id.toNat ≤ c.idMax cfg) (hlen : len ≤ cfg.maxDlc)
    (hdata : data.length = len) : (mkInstr c id len data).wf cfg = true := by
  cases c with
  | stdData => simpa [mkInstr, Instr.wf, idFits, payloadFits, hlen, hdata] using hid
  | extData => simpa [mkInstr, Instr.wf, idFits, payloadFits, hlen, hdata] using hid
  | stdRemote => simpa [mkInstr, Instr.wf, idFits] using hid
  | extRemote => simpa [mkInstr, Instr.wf, idFits] using hid

/-- With an identifier in range the rest of the frame path checks the length and takes as many bytes as it says (R106, R107). -/
theorem wfOrInvalid_decodeAfterId {c : FrameCmd} {id : CanId} (pos m : Nat) (rest : List Byte) (hid : id.toNat ≤ c.idMax cfg) :
    (decodeAfterId cfg c id pos m rest).WfOrInvalid cfg := by
  unfold decodeAfterId
  split
  · exact wfOrInvalid_checkExcess _ _ (mkInstr_wf hid (Nat.zero_le _) rfl)
  · split
    · exact wfOrInvalid_invalid _
    · rename_i d digits
      dsimp only
      split
      · exact wfOrInvalid_invalid _
      · split
        · exact wfOrInvalid_invalid _
        · rename_i hlen hdigits
          have hpairs : (digits.take (2 * hexval d)).length = 2 * hexval d := List.length_take_of_le (by omega)
          exact wfOrInvalid_checkExcess _ _ (mkInstr_wf hid (by omega) (bytePairs_length _ _ hpairs))

/-- The register of 32 bits never makes an identifier larger. -/
theorem toNat_ofNat_le_idMax {c : FrameCmd} {v : Nat} (hv : v ≤ c.idMax cfg) : (BitVec.ofNat 32 v).toNat ≤ c.idMax cfg := by
  rw [BitVec.toNat_ofNat]
  exact (Nat.mod_le _ _).trans hv

/-- Unless the reading is `keep`, an identifier that goes on is at most its width's maximum (R105). -/
theorem wfOrInvalid_decodeFrameCmd (hk : idRangeReading cfg ≠ some .keep) (c : FrameCmd) (body : List Byte) :
    (decodeFrameCmd cfg c body).WfOrInvalid cfg := by
  unfold decodeFrameCmd
  dsimp only
  split
  · exact wfOrInvalid_invalid _
  · split
    · cases hr : idRangeReading cfg with
      | none => exact wfOrInvalid_refuse _
      | some r =>
        cases r with
        | invalid => exact wfOrInvalid_invalid _
        | keep => exact absurd hr hk
        | mask => exact wfOrInvalid_decodeAfterId _ _ _ (toNat_ofNat_le_idMax Nat.and_le_right)
    · exact wfOrInvalid_decodeAfterId _ _ _ (toNat_ofNat_le_idMax (by omega))

theorem valueFits_of_valTab {c : ValueCmd} {d x : Nat} (h : valTab cfg c d = some x) : valueFits (valTable cfg c) x = true := by
  rw [valTab, Option.join_eq_some_iff] at h
  exact List.contains_iff_mem.2 (List.mem_of_getElem? h)

theorem mkValueInstr_wf {c : ValueCmd} {x : Nat} (h : valueFits (valTable cfg c) x = true) : (mkValueInstr c x).wf cfg = true := by
  cases c <;> exact h

theorem wfOrInvalid_decodeValueCmd (c : ValueCmd) (body : List Byte) : (decodeValueCmd cfg c body).WfOrInvalid cfg := by
  unfold decodeValueCmd
  split
  · exact wfOrInvalid_invalid _
  · split
    · exact wfOrInvalid_invalid _
    · exact wfOrInvalid_checkExcess _ _ (mkValueInstr_wf (valueFits_of_valTab ‹_›))

theorem mkPlainInstr_wf (c : PlainCmd) : (mkPlainInstr c).wf cfg = true := by cases c <;> rfl

theorem wfOrInvalid_decodeLine (hk : idRangeReading cfg ≠ some .keep) (c : Byte) (body : List Byte) :
    (decodeLine cfg c body).WfOrInvalid cfg := by
  unfold decodeLine
  split
  · exact wfOrInvalid_invalid _
  · split
    · exact wfOrInvalid_invalid _
    · rename_i cmd _ _ _
      cases cmd with
      | frame c => exact wfOrInvalid_decodeFrameCmd hk c body
      | value c => exact wfOrInvalid_decodeValueCmd c body
      | plain c => exact wfOrInvalid_checkExcess _ _ (mkPlainInstr_wf c)

/-- Settles O5: each path of decode checks what R13 and the tables ask before it answers a command. -/
theorem decodedCommandsAreWellFormed : Obligations.DecodedCommandsAreWellFormed := by
  intro cfg buf i _ hk hd hi
  match buf with
  | [] => cases hd
  | [_] => cases hd
  | c :: b :: rest => exact wfOrInvalid_decodeLine hk c _ i hd hi

/-- The Frame of a well-formed command meets R13 and the tables. -/
theorem frame_wf_of_wf {i : Instr} (h : i.wf cfg = true) : i.frame.wf cfg = true := by
  have bus (c : FrameCmd) (id : CanId) (len : Nat) (data : List Byte) (hid : id.toNat ≤ c.idMax cfg) (hlen : len ≤ cfg.maxDlc)
      (hdata : data.length = len) : (Frame.bus (mkBusFrame c id len data)).wf cfg = true :=
    (mkBusFrame_wf cfg c id len data).2 ⟨hid, hlen, hdata⟩
  cases i with
  | stdData id len data =>
    obtain ⟨hid, hlen, hdata⟩ := by simpa [Instr.wf, idFits, payloadFits] using h
    exact bus .stdData id len data hid hlen hdata
  | extData id len data =>
    obtain ⟨hid, hlen, hdata⟩ := by simpa [Instr.wf, idFits, payloadFits] using h
    exact bus .extData id len data hid hlen hdata
  | stdRemote id => exact bus .stdRemote id 0 [] (of_decide_eq_true h) (Nat.zero_le _) rfl
  | extRemote id => exact bus .extRemote id 0 [] (of_decide_eq_true h) (Nat.zero_le _) rfl
  | setBitrate v => exact h
  | setMode v => exact h
  | setAutoRetry v => exact h
  | openChannel => rfl
  | closeChannel => rfl
  | getVersion => rfl
  | reportError => rfl
  | invalid e => cases h

/-! ## Frames that meet R13 and the tables have a line -/

/-- Under the constraint of R160 every value in a table's range has a byte. -/
theorem toChar_of_valueFits {t : ValTable} (ht : t.wf = true) {x : Nat} (hx : valueFits t x = true) : (t.toChar.lookup x).isSome = true := by
  obtain ⟨d, hd, hdx⟩ := List.getElem_of_mem (List.contains_iff_mem.1 hx)
  simp only [ValTable.wf, Bool.and_eq_true, decide_eq_true_eq, List.all_eq_true, List.mem_range] at ht
  obtain ⟨hlen, hall⟩ := ht
  have hd16 := hall d (by omega)
  rw [List.getElem?_eq_getElem hd, hdx] at hd16
  cases hl : t.toChar.lookup x with
  | none => simp [hl] at hd16
  | some b => rfl

theorem valTable_wf (h : cfg.wf = true) (c : ValueCmd) : (valTable cfg c).wf = true := by
  simp only [Config.wf, Bool.and_eq_true] at h
  obtain ⟨⟨⟨⟨⟨-, hb⟩, hm⟩, ha⟩, -⟩, -⟩ := h.1
  cases c with
  | setBitrate => exact hb
  | setMode => exact hm
  | setAutoRetry => exact ha

theorem encodeFrame_ne_none (hc : cfg.wf = true) {F : Frame} (hF : F.wf cfg = true) : encodeFrame cfg F ≠ none := by
  rw [← Option.isSome_iff_ne_none]
  cases F with
  | bus f => exact (encodeFrame_bus_isSome cfg f).trans hF
  | value c v =>
    rw [encodeFrame, Option.isSome_map]
    exact toChar_of_valueFits (valTable_wf hc c) hF
  | plain c => rfl
  | invalid => cases hF

end Sys2Proof
end

section
/-! The Frames held meet R13 and the tables (R13, R204, R268): a rule for each write of the fields that hold a Frame, the workers, every
step; and what a refusal for encode's precondition needs (R119, U9). -/

namespace Sys2Proof.Machine

/-- An entry from the bus meets R13 and the tables, one from a serial line is as `P` says. -/
def Tagged.ok (P : Frame → Prop) (cfg : Config) (x : Tagged) : Prop :=
  (x.origin = .bus → x.frame.wf cfg = true) ∧ (x.origin = .serial → P x.frame)

theorem Tagged.ok_bus {P : Frame → Prop} {cfg : Config} {F : Frame} (hF : F.wf cfg = true) :
    Tagged.ok P cfg { frame := F, origin := .bus } := ⟨fun _ => hF, fun h => nomatch h⟩

theorem Tagged.ok_serial {P : Frame → Prop} {cfg : Config} {F : Frame} (hF : P F) :
    Tagged.ok P cfg { frame := F, origin := .serial } := ⟨(fun h => nomatch h), fun _ => hF⟩

namespace State.Holds

variable {P : Frame → Prop} {s t : State}

/-! ## The writes -/

theorem of_sameData (h : s.Holds P) (d : SameData s t) : t.Holds P where
  outQ := by simpa [d.outQ, d.cfg] using h.outQ
  inQ := by rw [d.inQ, d.cfg]; exact h.inQ
  submitting := by simpa [d.submitting, d.cfg] using h.submitting
  txw := by simpa [d.txw, d.cfg] using h.txw
  rxw := by rw [d.rxw, d.cfg]; exact h.rxw
  schedule := by simpa [d.schedule, d.cfg] using h.schedule

/-- The moves to come stay honest when the next one is taken. -/
theorem takeMove (h : s.Holds P) {e : Event} {rest : List Event} (hs : s.schedule = e :: rest) : (s.withSchedule rest).Holds P :=
  { h with schedule := fun e he => h.schedule e (hs ▸ List.mem_cons_of_mem _ he) }

/-- The move taken was honest. -/
theorem head_honest (h : s.Holds P) {e : Event} {rest : List Event} (hs : s.schedule = e :: rest) : e.honest s.cfg :=
  h.schedule e (hs ▸ List.mem_cons_self)

theorem withRet (h : s.Holds P) (r : CallResult) : (s.withRet r).Holds P := h.of_sameData (Aside.withRet s r).toSameData

theorem withOutQ (h : s.Holds P) {q : List Frame} (hq : ∀ F ∈ q, F.wf s.cfg = true) : (s.withOutQ q).Holds P := { h with outQ := hq }

theorem withInQ (h : s.Holds P) {q : List Tagged} (hq : ∀ x ∈ q, x.ok P s.cfg) : (s.withInQ q).Holds P := { h with inQ := hq }

theorem withSubmitting (h : s.Holds P) {l : List Frame} (hl : ∀ F ∈ l, F.wf s.cfg = true) : (s.withSubmitting l).Holds P :=
  { h with submitting := hl }

theorem withTxw (h : s.Holds P) {p : TxwPhase} (hp : ∀ F, p.frame? = some F → F.wf s.cfg = true) : (s.withTxw p).Holds P :=
  { h with txw := hp }

theorem withRxw (h : s.Holds P) {p : RxwPhase} (hp : ∀ x, p.entry? = some x → x.ok P s.cfg) : (s.withRxw p).Holds P :=
  { h with rxw := hp }

theorem enqueueOut (h : s.Holds P) {F : Frame} (hF : F.wf s.cfg = true) : (s.withOutQ (s.outQ ++ [F])).Holds P :=
  h.withOutQ (List.forall_mem_append.2 ⟨h.outQ, by simpa using hF⟩)

theorem enqueueIn (h : s.Holds P) {x : Tagged} (hx : x.ok P s.cfg) : (s.withInQ (s.inQ ++ [x])).Holds P :=
  h.withInQ (List.forall_mem_append.2 ⟨h.inQ, by simpa using hx⟩)

/-- Construction and restart leave no Frame but in the moves to come. -/
theorem constructFresh (h : s.Holds P) : (constructFresh s).Holds P where
  outQ := fun _ hF => nomatch hF
  inQ := fun _ hx => nomatch hx
  submitting := fun _ hF => nomatch hF
  txw := fun _ hF => nomatch hF
  rxw := fun _ hx => nomatch hx
  schedule := h.schedule

theorem restart (h : s.Holds P) : (restart s).Holds P := { h.constructFresh with }

/-! ## The workers -/

variable {w : Worker} {F : Frame} {a : Answers}

/-- TXW holds one Frame that meets R13 at most, RXW one entry as its origin asks. -/
theorem holdTxw (h : s.Holds P) {p : TxwPhase} (hF : F.wf s.cfg = true) (hp : p.frame? = some F) : (s.withTxw p).Holds P :=
  h.withTxw fun _ hG => Option.some.inj (hp.symm.trans hG) ▸ hF

theorem holdRxw (h : s.Holds P) {p : RxwPhase} {x : Tagged} (hx : x.ok P s.cfg) (hp : p.entry? = some x) : (s.withRxw p).Holds P :=
  h.withRxw fun _ hy => Option.some.inj (hp.symm.trans hy) ▸ hx

theorem releaseTxw (h : s.Holds P) : (s.withTxw .idle).Holds P := h.withTxw fun _ hF => nomatch hF

theorem releaseRxw (h : s.Holds P) : (s.withRxw .idle).Holds P := h.withRxw fun _ hx => nomatch hx

/-- The bus path of TXW serves producers' Frames, which meet R13; that of RXW serial ones (R204). -/
theorem busStep (h : s.Holds P) {p : BusPhase} (ht : w = .txw → F.wf s.cfg = true) (hr : w = .rxw → P F)
    (hstep : busStep w F p a s = .next t) : t.Holds P := by
  obtain ⟨s', hs, ht'⟩ := busStep_shape hstep
  have h' := h.of_sameData hs
  cases w with
  | txw =>
    have hF : F.wf s'.cfg = true := hs.cfg.symm ▸ ht rfl
    obtain ⟨p', rfl, -⟩ | rfl := ht'
    · exact h'.holdTxw hF rfl
    · exact h'.holdTxw hF rfl
  | rxw =>
    obtain ⟨p', rfl, -⟩ | rfl := ht'
    · exact h'.holdRxw (Tagged.ok_serial (hr rfl)) rfl
    · exact h'.releaseRxw

/-- USB forwarding serves producers' Frames and those from the bus, and both meet R13 (R202, R204). -/
theorem usbStep (h : s.Holds P) {p : UsbPhase} (hF : F.wf s.cfg = true) (hstep : usbStep w F p a s = .next t) : t.Holds P := by
  obtain ⟨s', hs, ht⟩ := usbStep_shape hstep
  have h' := h.of_sameData hs.toSameData
  have hF' : F.wf s'.cfg = true := hs.cfg.symm ▸ hF
  cases w with
  | txw =>
    obtain ⟨p', rfl, -⟩ | rfl := ht
    · exact h'.holdTxw hF' rfl
    · exact h'.releaseTxw
  | rxw =>
    obtain ⟨p', rfl, -⟩ | rfl := ht
    · exact h'.holdRxw (Tagged.ok_bus hF') rfl
    · exact h'.holdRxw (Tagged.ok_bus hF') rfl

theorem txwStep (h : s.Holds P) (hstep : txwStep a s = .next t) : t.Holds P := by
  have held := h.txw
  rcases txwStep_next hstep with ⟨-, -, rfl⟩ | ⟨F, rest, -, hq, rfl⟩ | ⟨F, hp, -, rfl⟩ | ⟨F, -, -, rfl⟩ | ⟨F, p, hp, hb⟩ | ⟨F, p, hp, hu⟩
  · exact h
  · have hv := h.outQ
    rw [hq] at hv
    obtain ⟨hF, hrest⟩ := List.forall_mem_cons.1 hv
    exact (h.withOutQ hrest).holdTxw hF rfl
  · exact h.holdTxw (held F (by rw [hp]; rfl)) rfl
  · exact h.releaseTxw
  · exact h.busStep (w := .txw) (fun _ => held F (by rw [hp]; rfl)) (fun hw => nomatch hw) hb
  · exact h.usbStep (held F (by rw [hp]; rfl)) hu

theorem rxwStep (h : s.Holds P) (hstep : rxwStep a s = .next t) : t.Holds P := by
  have held := h.rxw
  rcases rxwStep_next hstep with ⟨-, -, rfl⟩ | ⟨x, rest, -, hq, rfl⟩ | ⟨x, hp, -, ho, rfl⟩ | ⟨x, hp, -, ho, rfl⟩ | ⟨x, -, -, rfl⟩ |
    ⟨F, p, hp, hb⟩ | ⟨F, p, hp, hu⟩ | ⟨F, -, rfl⟩
  · exact h
  · have hv := h.inQ
    rw [hq] at hv
    obtain ⟨hx, hrest⟩ := List.forall_mem_cons.1 hv
    exact (h.withInQ hrest).holdRxw hx rfl
  · exact h.holdRxw (Tagged.ok_serial ((held x (by rw [hp]; rfl)).2 ho)) rfl
  · exact h.holdRxw (Tagged.ok_bus ((held x (by rw [hp]; rfl)).1 ho)) rfl
  · exact h.releaseRxw
  · exact h.busStep (w := .rxw) (fun hw => nomatch hw) (fun _ => (held _ (by rw [hp]; rfl)).2 rfl) hb
  · exact h.usbStep ((held _ (by rw [hp]; rfl)).1 rfl) hu
  · exact ((h.of_sameData (Aside.logged s _).toSameData).of_sameData (.withDrop _ 0)).releaseRxw

end State.Holds

/-! ## Every step -/

/-- A tag's identifier maximum depends on its width only (R13). -/
theorem idMax_tagOfFlags (cfg : Config) (ext rtr : Bool) : (tagOfFlags ext rtr).idMax cfg = (tagOfFlags ext false).idMax cfg := by
  cases ext <;> cases rtr <;> rfl

/-- What wrap makes of an honest header meets R13 (R108, R268 clause 2). -/
theorem wrapRx_wf {cfg : Config} {h : RxHeader} {bytes : List Byte} {F : Frame} (hw : wrapRx cfg h bytes = some F)
    (hid : h.identifier.toNat ≤ (tagOfFlags (extOf h.idType) false).idMax cfg) : F.wf cfg = true := by
  obtain ⟨hbytes, hlen, rfl⟩ := wrapRx_some hw
  refine (busFrame_wf_iff cfg _).2 ⟨?_, ?_, (idMax_tagOfFlags cfg _ _).symm ▸ hid, hlen, hbytes.symm⟩
  · cases extOf h.idType <;> cases rtrOf h.rxFrameType <;> rfl
  · cases extOf h.idType <;> cases rtrOf h.rxFrameType <;> rfl

/-- Every step keeps what the Frames held meet, where the Frames that serial lines bring are as `P` says. -/
theorem step_keeps_holds {P : Frame → Prop} {s t : State} (hP : ∀ buf i, decode s.cfg buf = .instr i → (∀ e, i ≠ .invalid e) → P i.frame)
    (h : s.Holds P) (hstep : step s = .next t) : t.Holds P := by
  cases step_transition hstep with
  | still _ => exact h
  | aside hs d => exact (h.takeMove hs).of_sameData d.toSameData
  | @serialQueued buf i _ hs hd hi _ => exact (h.takeMove hs).enqueueIn (Tagged.ok_serial (hP buf i hd hi))
  | busQueued hs hw _ => exact (h.takeMove hs).enqueueIn (Tagged.ok_bus (wrapRx_wf hw (h.head_honest hs)))
  | completed hs hf => exact (h.takeMove hs).of_sameData (completed_sameData hf)
  | busErrored hs he => exact (h.takeMove hs).of_sameData (errIsr_sameData he)
  | submitted hs hF =>
    have hwf := (h.head_honest hs).resolve_left hF
    exact (h.takeMove hs).withSubmitting (List.forall_mem_append.2 ⟨h.submitting, by simpa using hwf⟩)
  | @enqueued k F _ hs hk _ =>
    have hwf := h.submitting F (List.mem_of_getElem? hk)
    exact (((h.takeMove hs).enqueueOut hwf).withSubmitting fun G hG => h.submitting G (List.mem_of_mem_eraseIdx hG)).withRet _
  | isrEnqueued hs hF _ => exact ((h.takeMove hs).enqueueOut ((h.head_honest hs).resolve_left hF)).withRet _
  | txwStepped hs hw => exact (h.takeMove hs).txwStep hw
  | rxwStepped hs hw => exact (h.takeMove hs).rxwStep hw
  | constructed hs => exact (h.takeMove hs).constructFresh
  | restarted hs => exact (h.takeMove hs).restart

/-! ## Refusals for encode's precondition -/

theorem guarded_refused {s : State} {run : State → Result} {r : Refusal} (h : guarded s run = .refused r) :
    r = .notConstructed ∨ run s = .refused r := by
  unfold guarded at h
  split at h
  · split at h
    · cases h
    · exact .inr h
  · cases h
    exact .inl rfl

/-- A step that is a plain function of the state is refused before construction only. -/
theorem guarded_pure_refused (f : State → State) {s : State} {r : Refusal} (h : guarded s (fun s => .next (f s)) = .refused r) :
    r = .notConstructed := (guarded_refused h).resolve_right fun h => nomatch h

theorem exec_refused {i : Instr} {s : State} {r : Refusal} (h : exec i s = .refused r) : r = .notConstructed := by
  by_cases hi : ∃ e, i = .invalid e
  · obtain ⟨e, rfl⟩ := hi
    exact guarded_pure_refused (fun s => deliver .invalid .serial (s.logged (.decodeError e))) h
  · rw [exec_command i s fun e he => hi ⟨e, he⟩] at h
    exact guarded_pure_refused (deliver i.frame .serial) h

theorem busStep_ne_encodePrecondition (w : Worker) (F : Frame) (p : BusPhase) (a : Answers) (s : State) :
    busStep w F p a s ≠ .refused .encodePrecondition := by
  intro h
  cases p with
  | bs6 hd =>
    simp only [busStep, stepBs6] at h
    split at h
    · split at h
      · cases h
      · split at h <;> cases h
    · cases h
  | _ => cases h

theorem usbStep_encodePrecondition {w : Worker} {F : Frame} {p : UsbPhase} {a : Answers} {s : State}
    (h : usbStep w F p a s = .refused .encodePrecondition) : encodeFrame s.cfg F = none := by
  cases p with
  | us1 =>
    simp only [usbStep, stepUs1] at h
    split at h
    · rcases encodeCap_cases s.cfg F s.cfg.usbBufSize with ⟨need, bytes, -, -, ⟨-, hc⟩ | ⟨-, hc⟩⟩ | ⟨hn, -⟩
      · rw [hc] at h
        cases h
      · rw [hc] at h
        cases h
      · exact hn
    · cases h
  | us2 bytes => cases h
  | us3 bytes left => cases h
  | us4 bytes left => cases h

theorem errIsr_ne_encodePrecondition (sel : Option Nat) (post : BerrReading) (s : State) :
    errIsr sel post s ≠ .refused .encodePrecondition := by
  intro h
  unfold errIsr at h
  split at h
  · split at h <;> cases h
  · cases h

theorem completeTx_ne_encodePrecondition (s : State) : completeTx s ≠ .refused .encodePrecondition := by
  intro h
  unfold completeTx at h
  split at h
  · cases h
  · exact (guarded_refused h).elim (fun h => nomatch h) fun h => nomatch h

/-- Only a worker in USB forwarding meets encode's precondition, on a Frame that has no line (R119). -/
theorem runEvent_encodePrecondition {e : Event} {s : State} (h : runEvent e s = .refused .encodePrecondition) :
    ∃ F p, (s.txw = .usb F p ∨ s.rxw = .usb F p) ∧ encodeFrame s.cfg F = none := by
  have run {f : State → Result} (h : guarded s f = .refused .encodePrecondition) : f s = .refused .encodePrecondition :=
    (guarded_refused h).resolve_left fun h => nomatch h
  cases e with
  | txComplete => exact absurd h (completeTx_ne_encodePrecondition s)
  | busError v sel post => exact absurd (run h) (errIsr_ne_encodePrecondition sel _ s)
  | txwStep a =>
    have h := run h
    unfold txwStep at h
    split at h
    · cases h
    · cases h
    · exact absurd h (busStep_ne_encodePrecondition _ _ _ _ _)
    · rename_i F p hp
      exact ⟨F, p, .inl hp, usbStep_encodePrecondition h⟩
  | rxwStep a =>
    have h := run h
    unfold rxwStep at h
    split at h
    · cases h
    · cases h
    · exact absurd h (busStep_ne_encodePrecondition _ _ _ _ _)
    · rename_i F p hp
      exact ⟨F, p, .inr hp, usbStep_encodePrecondition h⟩
    · cases h
  | serLine buf => cases h
  | setConnected b => cases h
  | tick => cases h
  | construct => cases h
  | restart => cases h
  | rxFrame fifo hd bytes => cases guarded_pure_refused (rxIsr fifo hd bytes) h
  | submitCall F => cases guarded_pure_refused (submitCall F) h
  | submitEnqueue k => cases guarded_pure_refused (submitEnqueue k) h
  | submitIsr F => cases guarded_pure_refused (submitFromIsr F) h

/-- A serial line is refused for another reason, decoded, or lost (R41, R186, R268). -/
theorem fetchLine_cases (buf : List Byte) (s : State) :
    (∃ r, r ≠ .encodePrecondition ∧ fetchLine buf s = .refuse r) ∨ (∃ i, fetchLine buf s = .instr i s) ∨ fetchLine buf s = .lost s := by
  unfold fetchLine
  split
  · split
    · exact .inr (.inr rfl)
    · split
      · exact .inl ⟨_, by simp, rfl⟩
      · split
        · exact .inr (.inl ⟨_, rfl⟩)
        · exact .inl ⟨_, by simp, rfl⟩
  · exact .inl ⟨_, by simp, rfl⟩

theorem step_encodePrecondition {s : State} (h : step s = .refused .encodePrecondition) :
    ∃ F p, (s.txw = .usb F p ∨ s.rxw = .usb F p) ∧ encodeFrame s.cfg F = none := by
  cases hs : s.schedule with
  | nil => simp [step, fetch, hs] at h
  | cons e rest =>
    by_cases he : ∃ buf, e = .serLine buf
    · obtain ⟨buf, rfl⟩ := he
      simp only [step, fetch, hs] at h
      rcases fetchLine_cases buf (s.withSchedule rest) with ⟨r, hr, hf⟩ | ⟨i, hf⟩ | hf
      · rw [hf] at h
        cases h
        exact absurd rfl hr
      · rw [hf] at h
        cases exec_refused h
      · rw [hf] at h
        cases h
    · rw [step_move hs fun buf hb => he ⟨buf, hb⟩] at h
      exact runEvent_encodePrecondition (s := s.withSchedule rest) h

/-- A state whose Frames meet encode's precondition has none in USB forwarding without a line. -/
theorem step_ne_encodePrecondition {P : Frame → Prop} {s : State} (hc : s.cfg.wf = true) (h : s.Holds P) :
    step s ≠ .refused .encodePrecondition := by
  intro hstep
  obtain ⟨F, p, hp | hp, hn⟩ := step_encodePrecondition hstep
  · exact encodeFrame_ne_none hc (h.txw F (by rw [hp]; rfl)) hn
  · exact encodeFrame_ne_none hc ((h.rxw _ (by rw [hp]; rfl)).1 rfl) hn

/-- Settles O50: the Frames held are kept as they are asked to be, a decoded one by O5, and only a Frame without a line is refused. -/
theorem stepKeepsFramesEncodable : Obligations.StepKeepsFramesEncodable := by
  refine fun s => ⟨fun t h hstep => ?_, fun t hc hk h hstep => ?_, step_ne_encodePrecondition⟩
  · exact step_keeps_holds (fun _ _ _ _ => trivial) h hstep
  · have hP (buf : List Byte) (i : Instr) (hd : decode s.cfg buf = .instr i) (hi : ∀ e, i ≠ .invalid e) : i.frame.wf s.cfg = true :=
      frame_wf_of_wf (decodedCommandsAreWellFormed s.cfg buf i hc hk hd hi)
    have ht := step_keeps_holds hP h hstep
    rwa [← stepKeepsTheConfiguration s t hstep] at ht

end Sys2Proof.Machine
end

section
/-! Who changes what: the notification slots (R217), the two counters (R17, R18), the queues (R52, R188) and the phases (R269), each over the
ways of a step. -/

namespace Sys2Proof.Machine

variable {s t : State} {a : Answers}

/-! ## The workers' steps -/

/-- A step of TXW writes its phase and at most counters, slots, the log and the environment, or takes the head of OutQ (R201). -/
theorem txwStep_shape (h : txwStep a s = .next t) :
    (∃ s' p, SameData s s' ∧ t = s'.withTxw p) ∨ ∃ F rest, s.outQ = F :: rest ∧ t = (s.withOutQ rest).withTxw (.got F) := by
  have same : SameData s s := (Aside.refl s).toSameData
  rcases txwStep_next h with ⟨-, -, rfl⟩ | ⟨F, rest, -, hq, rfl⟩ | ⟨F, -, -, rfl⟩ | ⟨F, -, -, rfl⟩ | ⟨F, p, -, hb⟩ | ⟨F, p, -, hu⟩
  · exact .inl ⟨t, t.txw, same, rfl⟩
  · exact .inr ⟨F, rest, hq, rfl⟩
  · exact .inl ⟨s, _, same, rfl⟩
  · exact .inl ⟨s, _, same, rfl⟩
  · obtain ⟨s', hs, ⟨p', rfl, -⟩ | rfl⟩ := busStep_shape hb
    · exact .inl ⟨s', _, hs, rfl⟩
    · exact .inl ⟨s', _, hs, rfl⟩
  · obtain ⟨s', hs, ⟨p', rfl, -⟩ | rfl⟩ := usbStep_shape hu
    · exact .inl ⟨s', _, hs.toSameData, rfl⟩
    · exact .inl ⟨s', _, hs.toSameData, rfl⟩

/-- A step of RXW writes its phase and at most counters, slots, the log and the environment, or takes the head of InQ (R203). -/
theorem rxwStep_shape (h : rxwStep a s = .next t) :
    (∃ s' p, SameData s s' ∧ t = s'.withRxw p) ∨ ∃ x rest, s.inQ = x :: rest ∧ t = (s.withInQ rest).withRxw (.got x) := by
  have same : SameData s s := (Aside.refl s).toSameData
  rcases rxwStep_next h with ⟨-, -, rfl⟩ | ⟨x, rest, -, hq, rfl⟩ | ⟨x, -, -, -, rfl⟩ | ⟨x, -, -, -, rfl⟩ | ⟨x, -, -, rfl⟩ |
    ⟨F, p, -, hb⟩ | ⟨F, p, -, hu⟩ | ⟨F, -, rfl⟩
  · exact .inl ⟨t, t.rxw, same, rfl⟩
  · exact .inr ⟨x, rest, hq, rfl⟩
  · exact .inl ⟨s, _, same, rfl⟩
  · exact .inl ⟨s, _, same, rfl⟩
  · exact .inl ⟨s, _, same, rfl⟩
  · obtain ⟨s', hs, ⟨p', rfl, -⟩ | rfl⟩ := busStep_shape hb
    · exact .inl ⟨s', _, hs, rfl⟩
    · exact .inl ⟨s', _, hs, rfl⟩
  · obtain ⟨s', hs, ⟨p', rfl, -⟩ | rfl⟩ := usbStep_shape hu
    · exact .inl ⟨s', _, hs.toSameData, rfl⟩
    · exact .inl ⟨s', _, hs.toSameData, rfl⟩
  · exact .inl ⟨_, _, (Aside.logged s _).toSameData.trans (.withDrop _ 0), rfl⟩

/-- A step of TXW writes the drop count in its counting phases only, no error count, and sets no slot. -/
theorem txwStep_counts (h : txwStep a s = .next t) :
    t.errCount = s.errCount ∧ (t.dropCount = s.dropCount ∨ ∃ F p, s.txw = .bus F p ∧ p.Counts) ∧
      (t.notify = s.notify ∨ t.notify = s.notify.set .txw false) := by
  rcases txwStep_next h with ⟨-, -, rfl⟩ | ⟨F, rest, -, -, rfl⟩ | ⟨F, -, -, rfl⟩ | ⟨F, -, -, rfl⟩ | ⟨F, p, hp, hb⟩ | ⟨F, p, -, hu⟩
  · exact ⟨rfl, .inl rfl, .inl rfl⟩
  · exact ⟨rfl, .inl rfl, .inl rfl⟩
  · exact ⟨rfl, .inl rfl, .inl rfl⟩
  · exact ⟨rfl, .inl rfl, .inl rfl⟩
  · obtain ⟨he, hd, hn⟩ := busStep_counts hb
    exact ⟨he, hd.imp_right fun hc => ⟨F, p, hp, hc⟩, hn⟩
  · obtain ⟨he, hd, hn⟩ := usbStep_counts hu
    exact ⟨he, .inl hd, .inl hn⟩

/-- The same of RXW, which also clears the drop count after a Frame from the bus (R205). -/
theorem rxwStep_counts (h : rxwStep a s = .next t) :
    t.errCount = s.errCount ∧ (t.dropCount = s.dropCount ∨ (∃ F p, s.rxw = .bus F p ∧ p.Counts) ∨ ∃ F, s.rxw = .rst F) ∧
      (t.notify = s.notify ∨ t.notify = s.notify.set .rxw false) := by
  rcases rxwStep_next h with ⟨-, -, rfl⟩ | ⟨x, rest, -, -, rfl⟩ | ⟨x, -, -, -, rfl⟩ | ⟨x, -, -, -, rfl⟩ | ⟨x, -, -, rfl⟩ |
    ⟨F, p, hp, hb⟩ | ⟨F, p, -, hu⟩ | ⟨F, hp, rfl⟩
  · exact ⟨rfl, .inl rfl, .inl rfl⟩
  · exact ⟨rfl, .inl rfl, .inl rfl⟩
  · exact ⟨rfl, .inl rfl, .inl rfl⟩
  · exact ⟨rfl, .inl rfl, .inl rfl⟩
  · exact ⟨rfl, .inl rfl, .inl rfl⟩
  · obtain ⟨he, hd, hn⟩ := busStep_counts hb
    exact ⟨he, hd.imp_right fun hc => .inl ⟨F, p, hp, hc⟩, hn⟩
  · obtain ⟨he, hd, hn⟩ := usbStep_counts hu
    exact ⟨he, .inl hd, .inl hn⟩
  · exact ⟨rfl, .inr (.inr ⟨F, hp⟩), .inl rfl⟩

/-! ## The notification slots -/

theorem get_of_kept_or_cleared {m n : PerWorker} {w v : Worker} (h : m = n ∨ m = n.set v false) (hm : m.get w = true) : n.get w = true := by
  rcases h with rfl | rfl
  · exact hm
  · cases w <;> cases v <;> simp_all

/-- Settles O56: among the ways of a step only a completion sets a slot; the workers keep the slots or clear one. -/
theorem onlyTxCompleteNotifies : Obligations.OnlyTxCompleteNotifies := by
  intro s t w hstep hs ht
  have kept {P : Prop} (h : s.notify.get w = true) : P := by simp [hs] at h
  cases step_transition hstep with
  | @completed _ l rest hm _ => exact ⟨txcIsr_notifies (s := (s.withSchedule rest).withTxFifo l) hs ht, rest, hm⟩
  | aside _ d => exact kept (d.notify ▸ ht)
  | busErrored _ he => exact kept (errIsr_notify he ▸ ht)
  | txwStepped _ hw => exact kept (get_of_kept_or_cleared (txwStep_counts hw).2.2 ht)
  | rxwStepped _ hw => exact kept (get_of_kept_or_cleared (rxwStep_counts hw).2.2 ht)
  | constructed _ => cases w <;> cases ht
  | restarted _ => cases w <;> cases ht
  | still _ => exact kept ht
  | serialQueued _ _ _ _ => exact kept ht
  | busQueued _ _ _ => exact kept ht
  | submitted _ _ => exact kept ht
  | enqueued _ _ _ => exact kept ht
  | isrEnqueued _ _ _ => exact kept ht

/-! ## The counters -/

/-- Settles O57: the two handlers that count, the workers' counting phases and the block built anew are the ways that write a counter. -/
theorem onlyTheListedWritersChangeTheCounters : Obligations.OnlyTheListedWritersChangeTheCounters := by
  intro s t hstep
  cases step_transition hstep with
  | completed hm _ => exact ⟨fun _ => .inl ⟨_, .inl hm⟩, fun _ => .inl ⟨_, .inl hm⟩⟩
  | constructed hm => exact ⟨fun _ => .inl ⟨_, .inr (.inl hm)⟩, fun _ => .inl ⟨_, .inr (.inl hm)⟩⟩
  | restarted hm => exact ⟨fun _ => .inl ⟨_, .inr (.inr hm)⟩, fun _ => .inl ⟨_, .inr (.inr hm)⟩⟩
  | @busErrored _ _ _ rest _ hm he =>
    exact ⟨fun hd => .inr (.inl ⟨_, _, _, _, hm, errIsr_dropCount (s := s.withSchedule rest) he hd⟩), fun _ => .inr ⟨_, _, _, _, hm⟩⟩
  | txwStepped hm hw =>
    obtain ⟨he, hd, -⟩ := txwStep_counts hw
    refine ⟨fun hne => ?_, absurd he⟩
    obtain ⟨F, p, hp, hc⟩ := hd.resolve_left hne
    refine .inr (.inr (.inl ⟨_, _, F, hm, ?_⟩))
    rcases hc with ⟨d, rfl⟩ | rfl | ⟨d, rfl⟩
    · exact .inl ⟨d, hp⟩
    · exact .inr (.inl hp)
    · exact .inr (.inr ⟨d, hp⟩)
  | rxwStepped hm hw =>
    obtain ⟨he, hd, -⟩ := rxwStep_counts hw
    refine ⟨fun hne => ?_, absurd he⟩
    obtain ⟨F, p, hp, hc⟩ | ⟨F, hp⟩ := hd.resolve_left hne
    · refine .inr (.inr (.inr ⟨_, _, F, hm, ?_⟩))
      rcases hc with ⟨d, rfl⟩ | rfl | ⟨d, rfl⟩
      · exact .inl ⟨d, hp⟩
      · exact .inr (.inl hp)
      · exact .inr (.inr (.inl ⟨d, hp⟩))
    · exact .inr (.inr (.inr ⟨_, _, F, hm, .inr (.inr (.inr hp))⟩))
  | aside _ d => exact ⟨absurd d.dropCount, absurd d.errCount⟩
  | still _ => exact ⟨absurd rfl, absurd rfl⟩
  | serialQueued _ _ _ _ => exact ⟨absurd rfl, absurd rfl⟩
  | busQueued _ _ _ => exact ⟨absurd rfl, absurd rfl⟩
  | submitted _ _ => exact ⟨absurd rfl, absurd rfl⟩
  | enqueued _ _ _ => exact ⟨absurd rfl, absurd rfl⟩
  | isrEnqueued _ _ _ => exact ⟨absurd rfl, absurd rfl⟩

/-! ## The queues -/

/-- Settles O58: each way of a step appends to one queue, takes the head of one, clears both or touches neither. -/
theorem queuesAreFirstInFirstOut : Obligations.QueuesAreFirstInFirstOut := by
  intro s t hstep
  cases step_transition hstep with
  | still _ => exact ⟨.inl rfl, .inl rfl⟩
  | aside _ d => exact ⟨.inl d.outQ, .inl d.inQ⟩
  | serialQueued hm hd hi _ => exact ⟨.inl rfl, .inr (.inl ⟨_, _, _, hm, hd, hi, rfl⟩)⟩
  | busQueued hm hw _ => exact ⟨.inl rfl, .inr (.inr (.inl ⟨_, _, _, _, _, hm, hw, rfl⟩))⟩
  | completed _ hf => exact ⟨.inl (completed_sameData hf).outQ, .inl (completed_sameData hf).inQ⟩
  | busErrored _ he => exact ⟨.inl (errIsr_sameData he).outQ, .inl (errIsr_sameData he).inQ⟩
  | submitted _ _ => exact ⟨.inl rfl, .inl rfl⟩
  | enqueued hm hk _ => exact ⟨.inr (.inr (.inl ⟨_, _, _, hm, hk, rfl⟩)), .inl rfl⟩
  | isrEnqueued hm hF _ => exact ⟨.inr (.inl ⟨_, _, hF, hm, rfl⟩), .inl rfl⟩
  | txwStepped hm hw =>
    obtain ⟨s', p, hs, rfl⟩ | ⟨F, l, hq, rfl⟩ := txwStep_shape hw
    · exact ⟨.inl hs.outQ, .inl hs.inQ⟩
    · exact ⟨.inr (.inr (.inr (.inl ⟨_, _, F, hm, hq, rfl⟩))), .inl rfl⟩
  | rxwStepped hm hw =>
    obtain ⟨s', p, hs, rfl⟩ | ⟨x, l, hq, rfl⟩ := rxwStep_shape hw
    · exact ⟨.inl hs.outQ, .inl hs.inQ⟩
    · exact ⟨.inl rfl, .inr (.inr (.inr (.inl ⟨_, _, x, hm, hq, rfl⟩)))⟩
  | constructed hm => exact ⟨.inr (.inr (.inr (.inr ⟨rfl, _, .inl hm⟩))), .inr (.inr (.inr (.inr ⟨rfl, _, .inl hm⟩)))⟩
  | restarted hm => exact ⟨.inr (.inr (.inr (.inr ⟨rfl, _, .inr hm⟩))), .inr (.inr (.inr (.inr ⟨rfl, _, .inr hm⟩)))⟩

/-! ## The phases -/

/-- Settles O59: a worker's step leaves the other's phase alone, and no other way but a block built anew touches either. -/
theorem phasesChangeInTheirOwnSteps : Obligations.PhasesChangeInTheirOwnSteps := by
  intro s t hstep
  cases step_transition hstep with
  | txwStepped hm hw =>
    refine ⟨fun _ => ⟨_, .inl ⟨_, hm⟩⟩, absurd ?_⟩
    obtain ⟨s', p, hs, rfl⟩ | ⟨F, l, -, rfl⟩ := txwStep_shape hw
    · exact hs.rxw
    · rfl
  | rxwStepped hm hw =>
    refine ⟨absurd ?_, fun _ => ⟨_, .inl ⟨_, hm⟩⟩⟩
    obtain ⟨s', p, hs, rfl⟩ | ⟨x, l, -, rfl⟩ := rxwStep_shape hw
    · exact hs.txw
    · rfl
  | constructed hm => exact ⟨fun _ => ⟨_, .inr (.inl hm)⟩, fun _ => ⟨_, .inr (.inl hm)⟩⟩
  | restarted hm => exact ⟨fun _ => ⟨_, .inr (.inr hm)⟩, fun _ => ⟨_, .inr (.inr hm)⟩⟩
  | aside _ d => exact ⟨absurd d.txw, absurd d.rxw⟩
  | completed _ hf => exact ⟨absurd (completed_sameData hf).txw, absurd (completed_sameData hf).rxw⟩
  | busErrored _ he => exact ⟨absurd (errIsr_sameData he).txw, absurd (errIsr_sameData he).rxw⟩
  | still _ => exact ⟨absurd rfl, absurd rfl⟩
  | serialQueued _ _ _ _ => exact ⟨absurd rfl, absurd rfl⟩
  | busQueued _ _ _ => exact ⟨absurd rfl, absurd rfl⟩
  | submitted _ _ => exact ⟨absurd rfl, absurd rfl⟩
  | enqueued _ _ _ => exact ⟨absurd rfl, absurd rfl⟩
  | isrEnqueued _ _ _ => exact ⟨absurd rfl, absurd rfl⟩

end Sys2Proof.Machine
end

section
/-! What needs a running block and what does not (R24, R251, R268, R280 to R284), as equations of a step. -/

namespace Sys2Proof.Machine

variable {s : State}

/-! ## Before construction, and on a halted block -/

/-- Every command is behind the guard (R24, R251). -/
theorem exec_guarded (i : Instr) (s : State) : ∃ run, exec i s = guarded s run := by
  by_cases hi : ∃ e, i = .invalid e
  · obtain ⟨e, rfl⟩ := hi
    exact ⟨fun s => .next (deliver .invalid .serial (s.logged (.decodeError e))), rfl⟩
  · exact ⟨fun s => .next (deliver i.frame .serial s), exec_command i s fun e he => hi ⟨e, he⟩⟩

theorem exec_unconstructed (hc : s.constructed = false) (i : Instr) : exec i s = .refused .notConstructed := by
  obtain ⟨run, hrun⟩ := exec_guarded i s
  exact hrun.trans (guarded_unconstructed s run hc)

theorem exec_halted (hc : s.constructed = true) (hh : s.halted = true) (i : Instr) : exec i s = .next s := by
  obtain ⟨run, hrun⟩ := exec_guarded i s
  exact hrun.trans (guarded_halted s run hc hh)

theorem fetch_serLine {buf : List Byte} {rest : List Event} (hs : s.schedule = .serLine buf :: rest) :
    fetch s = fetchLine buf (s.withSchedule rest) := by simp [fetch, hs]

theorem completeTx_occupied {slot : HwEntry} {l : List HwEntry} (hf : s.env.txFifo = slot :: l) :
    completeTx s = guarded (s.withTxFifo l) fun s => .next (txcIsr s) := by simp [completeTx, hf]

/-- A move of an agent of the block other than a serial line and a completion is guarded (R24, R251). -/
theorem runEvent_ofBlock {e : Event} (he : e.ofBlock = true) (hl : ∀ buf, e ≠ .serLine buf) (ht : e ≠ .txComplete) :
    ∃ run, runEvent e s = guarded s run := by
  cases e with
  | serLine buf => exact absurd rfl (hl buf)
  | txComplete => exact absurd rfl ht
  | rxFrame fifo hd bytes => exact ⟨fun s => .next (rxIsr fifo hd bytes s), rfl⟩
  | busError v sel post => exact ⟨_, rfl⟩
  | txwStep a => exact ⟨_, rfl⟩
  | rxwStep a => exact ⟨_, rfl⟩
  | submitCall F => exact ⟨fun s => .next (submitCall F s), rfl⟩
  | submitEnqueue k => exact ⟨fun s => .next (submitEnqueue k s), rfl⟩
  | submitIsr F => exact ⟨fun s => .next (submitFromIsr F s), rfl⟩
  | setConnected b => cases he
  | tick => cases he
  | construct => cases he
  | restart => cases he

theorem step_unconstructed {e : Event} {rest : List Event} (hc : s.constructed = false) (hs : s.schedule = e :: rest)
    (he : e.ofBlock = true) (hf : e = .txComplete → s.env.txFifo ≠ []) : step s = .refused .notConstructed := by
  by_cases hl : ∃ buf, e = .serLine buf
  · obtain ⟨buf, rfl⟩ := hl
    simp [step, fetch_serLine hs, fetchLine, hc]
  · have hl (buf : List Byte) : e ≠ .serLine buf := fun hb => hl ⟨buf, hb⟩
    rw [step_move hs hl]
    by_cases ht : e = .txComplete
    · obtain ⟨slot, l, hslot⟩ := List.exists_cons_of_ne_nil (hf ht)
      subst ht
      exact (completeTx_occupied (s := s.withSchedule rest) hslot).trans (guarded_unconstructed _ _ hc)
    · obtain ⟨run, hrun⟩ := runEvent_ofBlock (s := s.withSchedule rest) he hl ht
      exact hrun.trans (guarded_unconstructed _ _ hc)

theorem step_halted {e : Event} {rest : List Event} (hc : s.constructed = true) (hh : s.halted = true) (hcb : s.serialCallback = true)
    (hs : s.schedule = e :: rest) (he : e.ofBlock = true) (ht : e ≠ .txComplete) : step s = .next (s.withSchedule rest) := by
  by_cases hl : ∃ buf, e = .serLine buf
  · obtain ⟨buf, rfl⟩ := hl
    simp [step, fetch_serLine hs, fetchLine, hc, hh, hcb]
  · have hl (buf : List Byte) : e ≠ .serLine buf := fun hb => hl ⟨buf, hb⟩
    obtain ⟨run, hrun⟩ := runEvent_ofBlock (s := s.withSchedule rest) he hl ht
    rw [step_move hs hl, hrun]
    exact guarded_halted _ _ hc hh

/-- The environment's part of a completion happens on a halted block too (log 12). -/
theorem step_txComplete_halted {slot : HwEntry} {l : List HwEntry} {rest : List Event} (hc : s.constructed = true) (hh : s.halted = true)
    (hs : s.schedule = .txComplete :: rest) (hf : s.env.txFifo = slot :: l) : step s = .next ((s.withSchedule rest).withTxFifo l) := by
  rw [step_move hs fun _ h => nomatch h]
  exact (completeTx_occupied (s := s.withSchedule rest) hf).trans (guarded_halted _ _ hc hh)

/-- Settles O24: every agent of the block is behind the same guard, and a completion is behind it once it took its slot. -/
theorem commandsNeedARunningBlock : Obligations.CommandsNeedARunningBlock :=
  fun _ =>
    ⟨fun hc => ⟨exec_unconstructed hc, fun _ _ hs he hf => step_unconstructed hc hs he hf⟩,
     fun hc hh => ⟨exec_halted hc hh, fun _ _ hs he ht hcb => step_halted hc hh hcb hs he ht,
      fun _ _ _ hs hf => step_txComplete_halted hc hh hs hf⟩⟩

/-! ## Moves from outside the block -/

theorem construct_unconstructed (hc : s.constructed = false) : construct s = constructFresh s := by simp [construct, hc]

theorem construct_running (hr : s.running) : construct s = s.withRet .alreadyConstructed := by simp [construct, hr.1, hr.2]

/-- Settles O31: each of these moves is a function of the state, whether the block runs or not. -/
theorem movesFromOutsideTheBlock : Obligations.MovesFromOutsideTheBlock := by
  refine fun s rest => ⟨fun hs => ⟨fun hc => ?_, fun hr => ?_⟩, fun hs => ?_, fun b hs => ?_, fun hs => ?_⟩
  · rw [step_move hs fun _ h => nomatch h]
    exact congrArg _ (construct_unconstructed (s := s.withSchedule rest) hc)
  · rw [step_move hs fun _ h => nomatch h]
    exact congrArg _ (construct_running (s := s.withSchedule rest) hr)
  · exact step_move hs fun _ h => nomatch h
  · exact step_move hs fun _ h => nomatch h
  · exact step_move hs fun _ h => nomatch h

end Sys2Proof.Machine
end

section
/-! The log is written and never read (R27): every operation answers alike, up to the log, on a state and on the state without its log. -/

namespace Sys2Proof.Machine

variable (s : State)

/-! ## What the state without its log keeps -/

@[simp] theorem eraseLog_cfg : s.eraseLog.cfg = s.cfg := rfl
@[simp] theorem eraseLog_outQ : s.eraseLog.outQ = s.outQ := rfl
@[simp] theorem eraseLog_inQ : s.eraseLog.inQ = s.inQ := rfl
@[simp] theorem eraseLog_txw : s.eraseLog.txw = s.txw := rfl
@[simp] theorem eraseLog_rxw : s.eraseLog.rxw = s.rxw := rfl
@[simp] theorem eraseLog_submitting : s.eraseLog.submitting = s.submitting := rfl
@[simp] theorem eraseLog_env : s.eraseLog.env = s.env := rfl
@[simp] theorem eraseLog_schedule : s.eraseLog.schedule = s.schedule := rfl

/-! ## What an operation does, and what a step answers, up to the log -/

/-- What the operation makes of a state, up to the log, does not depend on the log. -/
def LogBlindOp (f : State → State) : Prop := ∀ s, (f s.eraseLog).eraseLog = (f s).eraseLog

/-- What the step answers, up to the log, does not depend on the log. -/
def LogBlind (f : State → Result) : Prop := ∀ s, eraseLogOf (f s.eraseLog) = eraseLogOf (f s)

theorem LogBlindOp.next {f : State → State} (h : LogBlindOp f) : LogBlind fun s => .next (f s) :=
  fun s => congrArg Host.Outcome.next (h s)

theorem LogBlind.guarded {run : State → Result} (h : LogBlind run) : LogBlind fun s => guarded s run := by
  intro s
  simp only [Machine.guarded, apply_ite eraseLogOf, h s]
  rfl

/-! ## The queues, construction and the handlers -/

theorem logBlindOp_deliver (F : Frame) (o : Origin) : LogBlindOp (deliver F o) := by
  intro s
  simp only [deliver, apply_ite State.eraseLog]
  rfl

theorem logBlindOp_submitCall (F : Frame) : LogBlindOp (submitCall F) := by
  intro s
  simp only [submitCall, apply_ite State.eraseLog]
  rfl

theorem logBlindOp_submitEnqueue (k : Nat) : LogBlindOp (submitEnqueue k) := by
  intro s
  simp only [submitEnqueue, eraseLog_submitting]
  split
  · rfl
  · simp only [apply_ite State.eraseLog]
    rfl

theorem logBlindOp_submitFromIsr (F : Frame) : LogBlindOp (submitFromIsr F) := by
  intro s
  simp only [submitFromIsr, apply_ite State.eraseLog]
  rfl

theorem logBlindOp_construct : LogBlindOp construct := by
  intro s
  simp only [construct, apply_ite State.eraseLog]
  rfl

theorem logBlindOp_rxIsr (fifo : RxFifo) (h : RxHeader) (bytes : List Byte) : LogBlindOp (rxIsr fifo h bytes) := by
  intro s
  simp only [rxIsr, eraseLog_cfg]
  split
  · rfl
  · exact logBlindOp_deliver _ _ s

theorem logBlindOp_txcIsr : LogBlindOp txcIsr := by
  intro s
  simp only [txcIsr, wakeOne, apply_ite State.eraseLog]
  rfl

theorem logBlind_errIsr (sel : Option Nat) (post : BerrReading) : LogBlind (errIsr sel post) := by
  intro s
  simp only [errIsr, errTrip_eq, apply_ite eraseLogOf]
  rfl

theorem logBlind_completeTx : LogBlind completeTx := by
  intro s
  simp only [completeTx, eraseLog_env]
  split
  · rfl
  · exact logBlindOp_txcIsr.next.guarded (s.withTxFifo _)

/-! ## The workers -/

/-- Each phase tests and writes what is not the log, and may log. -/
theorem logBlind_busStep (w : Worker) (F : Frame) (p : BusPhase) (a : Answers) : LogBlind (busStep w F p a) := by
  intro s
  cases p with
  | bs1 =>
    simp only [busStep, stepBs1, apply_ite Host.Outcome.next, apply_ite eraseLogOf]
    cases w <;> rfl
  | bs1b d => cases w <;> rfl
  | bs2 =>
    simp only [busStep, stepBs2]
    split
    · cases w <;> rfl
    · cases w <;> rfl
  | bs3 h =>
    simp only [busStep, stepBs3, apply_ite Host.Outcome.next, apply_ite eraseLogOf]
    cases w <;> rfl
  | bs4 h => cases w <;> rfl
  | bs5 h =>
    simp only [busStep, stepBs5, apply_ite Host.Outcome.next, apply_ite eraseLogOf]
    cases w <;> rfl
  | bs5b =>
    simp only [busStep, stepBs5b, apply_ite Host.Outcome.next, apply_ite eraseLogOf]
    cases w <;> rfl
  | bs5c d => cases w <;> rfl
  | bs6 h =>
    cases hp : s.cfg.submitFullPolicy with
    | unset =>
      simp only [busStep, stepBs6, eraseLog_cfg, hp, apply_ite eraseLogOf]
      cases w <;> rfl
    | environment =>
      have hp' : s.eraseLog.cfg.submitFullPolicy = .environment := hp
      simp only [busStep, stepBs6, hp, hp', apply_ite eraseLogOf]
      cases w <;> rfl

theorem logBlindOp_usbAttempt (w : Worker) (F : Frame) (bytes : List Byte) (left : Nat) (a : Answers) :
    LogBlindOp (usbAttempt w F bytes left a) := by
  intro s
  cases left with
  | succ r =>
    simp only [usbAttempt, apply_ite State.eraseLog]
    cases w <;> rfl
  | zero =>
    simp only [usbAttempt, apply_ite State.eraseLog]
    cases w <;> rfl

theorem logBlind_usbStep (w : Worker) (F : Frame) (p : UsbPhase) (a : Answers) : LogBlind (usbStep w F p a) := by
  cases p with
  | us1 =>
    intro s
    cases he : encodeCap s.cfg F s.cfg.usbBufSize with
    | written bytes =>
      simp only [usbStep, stepUs1, eraseLog_cfg, he, apply_ite eraseLogOf]
      cases w <;> rfl
    | bufTooSmall =>
      simp only [usbStep, stepUs1, eraseLog_cfg, he, apply_ite eraseLogOf]
      cases w <;> rfl
    | refused =>
      simp only [usbStep, stepUs1, eraseLog_cfg, he, apply_ite eraseLogOf]
      cases w <;> rfl
  | us2 bytes => exact fun s => (logBlindOp_usbAttempt w F bytes s.cfg.usbRetries a).next s
  | us3 bytes left => intro s; cases w <;> rfl
  | us4 bytes left => exact (logBlindOp_usbAttempt w F bytes left a).next

theorem logBlind_txwStep (a : Answers) : LogBlind (txwStep a) := by
  intro s
  simp only [txwStep, eraseLog_txw]
  split
  · simp only [txwIdle, eraseLog_outQ]
    split
    · rfl
    · rfl
  · simp only [txwGot, apply_ite Host.Outcome.next, apply_ite eraseLogOf]
    rfl
  · exact logBlind_busStep _ _ _ _ s
  · exact logBlind_usbStep _ _ _ _ s

theorem logBlind_rxwStep (a : Answers) : LogBlind (rxwStep a) := by
  intro s
  simp only [rxwStep, eraseLog_rxw]
  split
  · simp only [rxwIdle, eraseLog_inQ]
    split
    · rfl
    · rfl
  · simp only [rxwGot]
    split
    · split
      · rfl
      · rfl
    · rfl
  · exact logBlind_busStep _ _ _ _ s
  · exact logBlind_usbStep _ _ _ _ s
  · rfl

/-! ## The moves -/

theorem logBlind_exec (i : Instr) : LogBlind (exec i) := by
  by_cases hi : ∃ e, i = .invalid e
  · obtain ⟨e, rfl⟩ := hi
    exact LogBlind.guarded fun _ => rfl
  · intro s
    rw [exec_command i s fun e he => hi ⟨e, he⟩, exec_command i s.eraseLog fun e he => hi ⟨e, he⟩]
    exact (logBlindOp_deliver i.frame .serial).next.guarded s

theorem logBlind_runEvent (e : Event) : LogBlind (runEvent e) := by
  cases e with
  | serLine buf => exact fun _ => rfl
  | rxFrame fifo h bytes => exact (logBlindOp_rxIsr fifo h bytes).next.guarded
  | txComplete => exact logBlind_completeTx
  | busError v sel post => exact LogBlind.guarded fun s => logBlind_errIsr sel (berrReading s.cfg post) s
  | setConnected b => exact fun _ => rfl
  | tick => exact fun _ => rfl
  | txwStep a => exact (logBlind_txwStep a).guarded
  | rxwStep a => exact (logBlind_rxwStep a).guarded
  | submitCall F => exact (logBlindOp_submitCall F).next.guarded
  | submitEnqueue k => exact (logBlindOp_submitEnqueue k).next.guarded
  | submitIsr F => exact (logBlindOp_submitFromIsr F).next.guarded
  | construct => exact logBlindOp_construct.next
  | restart => exact fun _ => rfl

/-- What is fetched, without the log of the state it is fetched from. -/
def Fetched.eraseLog : Fetched → Fetched
  | .idle => .idle
  | .instr i s => .instr i s.eraseLog
  | .refuse r => .refuse r
  | .lost s => .lost s.eraseLog
  | .move e s => .move e s.eraseLog

theorem fetchLine_eraseLog (buf : List Byte) : fetchLine buf s.eraseLog = (fetchLine buf s).eraseLog := by
  cases hd : decode s.cfg buf with
  | instr i =>
    simp only [fetchLine, eraseLog_cfg, hd, apply_ite Fetched.eraseLog]
    rfl
  | refuse r =>
    simp only [fetchLine, eraseLog_cfg, hd, apply_ite Fetched.eraseLog]
    rfl

theorem fetch_eraseLog : fetch s.eraseLog = (fetch s).eraseLog := by
  simp only [fetch, eraseLog_schedule]
  split
  · rfl
  · exact fetchLine_eraseLog (s.withSchedule _) _
  · rfl

theorem logBlind_step : LogBlind step := by
  intro s
  simp only [step, fetch_eraseLog]
  cases fetch s with
  | idle => rfl
  | instr i s' => exact logBlind_exec i s'
  | refuse r => rfl
  | lost s' => rfl
  | move e s' => exact logBlind_runEvent e s'

/-- Settles O60: two states that differ in their logs only are the same state without its log. -/
theorem theLogIsNeverRead : Obligations.TheLogIsNeverRead :=
  fun s l => (logBlind_step { s with log := l }).symm.trans (logBlind_step s)

end Sys2Proof.Machine
end

section
/-! The digits of a data line, read forward: what the identifier's digits spell, what the length takes, and which byte a digit pair is
(R44, R104 to R107). -/

namespace Sys2Proof

/-! ## Digit strings -/

/-- Digits read after the number `a` shift it by their count, each digit weighted by its position (R44). -/
theorem foldl_hexval_eq_sum (ds : List Byte) (a : Nat) :
    ds.foldl (fun acc d => acc * 16 + hexval d) a =
      a * 16 ^ ds.length + ((List.range ds.length).map fun j => hexval (ds.getD j 0) * 16 ^ (ds.length - 1 - j)).sum := by
  induction ds generalizing a with
  | nil => simp
  | cons d rest ih =>
    have hexp (j : Nat) : rest.length - 1 - j = rest.length - (j + 1) := by omega
    simp only [List.foldl_cons, ih, List.length_cons, List.range_succ_eq_map, List.map_cons, List.map_map, List.sum_cons,
      Function.comp_def, List.getD_cons_zero, List.getD_cons_succ, Nat.add_sub_cancel, Nat.sub_zero, hexp]
    ring

/-- What digits spell is their positional value, most significant first (R44). -/
theorem hexNum_eq_sum (ds : List Byte) :
    hexNum ds = ((List.range ds.length).map fun j => hexval (ds.getD j 0) * 16 ^ (ds.length - 1 - j)).sum := by
  rw [hexNum, foldl_hexval_eq_sum, Nat.zero_mul, Nat.zero_add]

/-- Two hex digits make a byte without loss, high nibble first. -/
theorem toNat_byte_of_digits {hi lo : Byte} (hhi : ishex hi = true) (hlo : ishex lo = true) :
    (BitVec.ofNat 8 (hexval hi * 16 + hexval lo)).toNat = hexval hi * 16 + hexval lo := by
  have := hexval_le hi hhi
  have := hexval_le lo hlo
  rw [BitVec.toNat_ofNat, Nat.mod_eq_of_lt (by omega)]

/-- Byte `i` of the payload is the `i`-th digit pair (R44, R107). -/
theorem toNat_getD_bytePairs (ds : List Byte) (hds : ∀ b ∈ ds, ishex b = true) (i : Nat) (hpair : 2 * i + 1 < ds.length) :
    ((bytePairs ds).getD i 0).toNat = hexval (ds.getD (2 * i) 0) * 16 + hexval (ds.getD (2 * i + 1) 0) := by
  induction i generalizing ds with
  | zero =>
    match ds, hpair with
    | hi :: lo :: rest, _ => exact toNat_byte_of_digits (hds hi (by simp)) (hds lo (by simp))
  | succ i ih =>
    match ds, hpair with
    | hi :: lo :: rest, hlen =>
      exact ih rest (fun b hb => hds b (by simp [hb])) (by simp only [List.length_cons] at hlen; omega)

/-! ## The frame path on fields in range -/

variable {cfg : Config} {c : FrameCmd}

/-- An identifier within its width is read from its digits, and the path goes on behind them (R105). -/
theorem decodeFrameCmd_of_le_idMax {ids : List Byte} (rest : List Byte) (hids : ids.length = c.idDigits cfg)
    (hmax : hexNum ids ≤ c.idMax cfg) : decodeFrameCmd cfg c (ids ++ rest) =
      decodeAfterId cfg c (BitVec.ofNat 32 (hexNum ids)) (1 + c.idDigits cfg) (1 + (ids ++ rest).length) rest := by
  have hlen : ¬ (ids ++ rest).length < ids.length := by simp
  simp only [decodeFrameCmd, if_neg hlen, ← hids, List.take_left, List.drop_left, if_neg (Nat.not_lt.2 hmax)]

/-- A data command behind its identifier: a length within `MAX_DLC` and its digit pairs give the command, up to the excess check
(R106, R107, R109). -/
theorem decodeAfterId_of_data {l : Byte} {ds : List Byte} (id : CanId) (pos m : Nat) (extra : List Byte) (hc : c.isRtr = false)
    (hl : hexval l ≤ cfg.maxDlc) (hds : ds.length = 2 * hexval l) : decodeAfterId cfg c id pos m (l :: (ds ++ extra)) =
      checkExcess cfg (pos + 1 + 2 * hexval l) m (mkInstr c id (hexval l) (bytePairs ds)) := by
  have hlen : ¬ (ds ++ extra).length < 2 * hexval l := by simp [hds]
  simp only [decodeAfterId, hc, Bool.false_eq_true, if_false, if_neg (Nat.not_lt.2 hl), if_neg hlen, List.take_left' hds]

/-- A data line with every field in range and nothing behind its payload decodes to the command its digits spell (R105 to R107). -/
theorem decode_dataLine {ids ds : List Byte} {l : Byte} (hc : c.isRtr = false) (hids : ids.length = c.idDigits cfg)
    (hhex : ∀ b ∈ ids ++ l :: ds, ishex b = true) (hl : hexval l ≤ cfg.maxDlc) (hds : ds.length = 2 * hexval l)
    (hmax : hexNum ids ≤ c.idMax cfg) : decode cfg (charOfFrameCmd c :: (ids ++ l :: ds ++ [cfg.terminator])) =
      .instr (mkInstr c (BitVec.ofNat 32 (hexNum ids)) (hexval l) (bytePairs ds)) := by
  have hend : 1 + (ids ++ l :: ds).length = 1 + c.idDigits cfg + 1 + 2 * hexval l := by
    simp only [List.length_append, List.length_cons]
    omega
  have hdata := decodeAfterId_of_data (BitVec.ofNat 32 (hexNum ids)) (1 + c.idDigits cfg) (1 + (ids ++ l :: ds).length) [] hc hl hds
  rw [List.append_nil, hend, checkExcess_self] at hdata
  calc decode cfg (charOfFrameCmd c :: (ids ++ l :: ds ++ [cfg.terminator]))
    _ = decodeFrameCmd cfg c (ids ++ l :: ds) := (decode_line cfg _ _).trans (decodeLine_of_hex cfg _ _ _ (cmdOfChar_frame cfg c) hhex)
    _ = decodeAfterId cfg c (BitVec.ofNat 32 (hexNum ids)) (1 + c.idDigits cfg) (1 + (ids ++ l :: ds).length) (l :: ds) :=
        decodeFrameCmd_of_le_idMax (l :: ds) hids hmax
    _ = .instr (mkInstr c (BitVec.ofNat 32 (hexNum ids)) (hexval l) (bytePairs ds)) := by rw [hend, hdata]

/-- Settles O6: the identifier is `hexNum` of its digits, their positional value, and the bytes are the `bytePairs` of the rest. -/
theorem dataLineFields : Obligations.DataLineFields := by
  intro cfg c ids ds l hc hids hhex hl hds hmax
  rw [← hids, ← hexNum_eq_sum] at hmax ⊢
  have hdsHex : ∀ b ∈ ds, ishex b = true := fun b hb => hhex b (by simp [hb])
  exact ⟨bytePairs ds, bytePairs_length ds _ hds, fun i hi => toNat_getD_bytePairs ds hdsHex i (by omega),
    decode_dataLine hc hids hhex hl hds hmax⟩

end Sys2Proof
end

section
/-! The line of each command, from its fields, and what that line decodes to (R87, R103, R119): the data commands, the remote commands,
the commands with a value and those without. -/

namespace Sys2Proof

variable {cfg : Config}

/-! ## Command bytes -/

theorem cmdChars_wf (hw : cfg.wf = true) : cfg.cmdChars.wf cfg.terminator = true := by
  simp only [Config.wf, Bool.and_eq_true] at hw
  obtain ⟨⟨⟨⟨⟨⟨⟨⟨-, hchars⟩, -⟩, -⟩, -⟩, -⟩, -⟩, -⟩, -⟩ := hw
  exact hchars

/-- Under R78 the byte encode emits for a command is looked up as that command: it differs from every byte that is asked before it. -/
theorem cmdOfChar_charOfCmd (hw : cfg.wf = true) (cmd : Cmd) : cmdOfChar cfg (charOfCmd cfg cmd) = some cmd := by
  have hdistinct := of_decide_eq_true (cmdChars_wf hw)
  have hreversed := List.nodup_reverse.2 hdistinct
  simp only [List.cons_append, List.nil_append, List.reverse_cons, List.reverse_nil, List.nodup_cons, List.mem_cons, not_or]
    at hdistinct hreversed
  cases cmd with
  | frame c => exact cmdOfChar_frame cfg c
  | value c => cases c <;> simp only [cmdOfChar, charOfCmd, charOfValueCmd, hdistinct, hreversed, if_true, if_false]
  | plain c => cases c <;> simp only [cmdOfChar, charOfCmd, charOfPlainCmd, hdistinct, hreversed, if_true, if_false]

/-- A digit the table defines has a value whose byte is that digit again (R160). -/
theorem valChar_of_valTab (hw : cfg.wf = true) {c : ValueCmd} {d x : Nat} (hx : valTab cfg c d = some x) :
    ∃ b, valChar cfg c x = some b ∧ ishex b = true ∧ hexval b = d := by
  have ht := valTable_wf hw c
  simp only [ValTable.wf, Bool.and_eq_true, decide_eq_true_eq, List.all_eq_true, List.mem_range] at ht
  obtain ⟨hlen, hall⟩ := ht
  obtain ⟨hd, -⟩ := List.getElem?_eq_some_iff.1 (Option.join_eq_some_iff.1 hx)
  have hdx := hall d (by omega)
  rw [show ((valTable cfg c).ofDigit[d]?).join = some x from hx] at hdx
  cases hb : (valTable cfg c).toChar.lookup x with
  | none => simp [hb] at hdx
  | some b => exact ⟨b, hb, by simpa [hb] using hdx⟩

theorem valTab_of_valueFits {c : ValueCmd} {x : Nat} (h : valueFits (valTable cfg c) x = true) : ∃ d, valTab cfg c d = some x := by
  obtain ⟨d, hd, hdx⟩ := List.getElem_of_mem (List.contains_iff_mem.1 h)
  exact ⟨d, by rw [valTab, List.getElem?_eq_getElem hd, hdx]; rfl⟩

/-! ## What encode writes -/

section
variable {c : FrameCmd} {id : CanId}

theorem encode_data (hc : c.isRtr = false) (hid : id.toNat ≤ c.idMax cfg) {data : List Byte} (hlen : data.length ≤ cfg.maxDlc) :
    encode cfg (mkInstr c id data.length data) =
      some (charOfFrameCmd c :: (idChars id (c.idDigits cfg) ++ hexchar data.length :: payloadChars data ++ [cfg.terminator])) := by
  have hwf := (mkBusFrame_wf cfg c id data.length data).2 ⟨hid, hlen, rfl⟩
  have hframe : (mkInstr c id data.length data).frame = .bus (mkBusFrame c id data.length data) := by
    cases c with
    | stdData => rfl
    | extData => rfl
    | stdRemote => cases hc
    | extRemote => cases hc
  simp [encode, hframe, encodeFrame, hwf, hc]

theorem encode_remote (hc : c.isRtr = true) (hid : id.toNat ≤ c.idMax cfg) :
    encode cfg (mkInstr c id 0 []) = some (charOfFrameCmd c :: (idChars id (c.idDigits cfg) ++ [cfg.terminator])) := by
  have hwf := (mkBusFrame_wf cfg c id 0 []).2 ⟨hid, Nat.zero_le _, rfl⟩
  have hframe : (mkInstr c id 0 []).frame = .bus (mkBusFrame c id 0 []) := by
    cases c with
    | stdData => cases hc
    | extData => cases hc
    | stdRemote => rfl
    | extRemote => rfl
  simp [encode, hframe, encodeFrame, hwf, hc]

end

theorem encode_value {c : ValueCmd} {x : Nat} {b : Byte} (hb : valChar cfg c x = some b) :
    encode cfg (mkValueInstr c x) = some [charOfValueCmd cfg c, b, cfg.terminator] := by
  have hframe : (mkValueInstr c x).frame = .value c x := by cases c <;> rfl
  simp [encode, hframe, encodeFrame, hb]

theorem encode_plain (c : PlainCmd) : encode cfg (mkPlainInstr c) = some [charOfPlainCmd cfg c, cfg.terminator] := by
  have hframe : (mkPlainInstr c).frame = .plain c := by cases c <;> rfl
  rw [encode, hframe, encodeFrame]

/-! ## What decode reads: the lines without a payload -/

/-- A remote line with its identifier in range and nothing behind it decodes to the command its digits spell (R104, R105). -/
theorem decode_remoteLine {c : FrameCmd} {ids : List Byte} (hc : c.isRtr = true) (hids : ids.length = c.idDigits cfg)
    (hhex : ∀ b ∈ ids, ishex b = true) (hmax : hexNum ids ≤ c.idMax cfg) :
    decode cfg (charOfFrameCmd c :: (ids ++ [cfg.terminator])) = .instr (mkInstr c (BitVec.ofNat 32 (hexNum ids)) 0 []) := by
  have hpath := decodeFrameCmd_of_le_idMax [] hids hmax
  simp only [List.append_nil, decodeAfterId, hc, if_true, hids, checkExcess_self] at hpath
  rw [decode_line, decodeLine_of_hex cfg _ _ _ (cmdOfChar_frame cfg c) hhex]
  exact hpath

/-- A value line decodes to the command with the value the table gives its digit (R160). -/
theorem decode_valueLine {ch b : Byte} {c : ValueCmd} {x : Nat} (hch : cmdOfChar cfg ch = some (.value c)) (hb : ishex b = true)
    (hx : valTab cfg c (hexval b) = some x) : decode cfg [ch, b, cfg.terminator] = .instr (mkValueInstr c x) := by
  have hpath : decodeValueCmd cfg c [b] = .instr (mkValueInstr c x) := by simp [decodeValueCmd, hx, checkExcess_self]
  exact (decode_line cfg ch [b]).trans ((decodeLine_of_hex cfg _ _ _ hch (by simpa using hb)).trans hpath)

theorem decode_plainLine {ch : Byte} {c : PlainCmd} (hch : cmdOfChar cfg ch = some (.plain c)) :
    decode cfg [ch, cfg.terminator] = .instr (mkPlainInstr c) :=
  (decode_line cfg ch []).trans ((decodeLine_of_hex cfg _ _ _ hch (by simp)).trans (checkExcess_self cfg _ _))

/-! ## The round trip -/

/-- Encode gives the command a line, and that line decodes to the command. -/
def Instr.RoundTrips (cfg : Config) (i : Instr) : Prop := ∃ line, encode cfg i = some line ∧ decode cfg line = .instr i

/-- The digits encode writes for an identifier in range spell that identifier, within 32 bits. -/
theorem hexNum_idChars_of_le_idMax (hw : cfg.wf = true) {c : FrameCmd} {id : CanId} (hid : id.toNat ≤ c.idMax cfg) :
    hexNum (idChars id (c.idDigits cfg)) = id.toNat :=
  hexNum_idChars id _ (hid.trans_lt (idMax_lt cfg (wf_wireWf cfg hw) c))

theorem roundTrips_data (hw : cfg.wf = true) {c : FrameCmd} (hc : c.isRtr = false) {id : CanId} (hid : id.toNat ≤ c.idMax cfg)
    {data : List Byte} (hlen : data.length ≤ cfg.maxDlc) : (mkInstr c id data.length data).RoundTrips cfg := by
  obtain ⟨-, hdlc, -⟩ := (wireWf_iff cfg).1 (wf_wireWf cfg hw)
  have hlen15 : data.length ≤ 15 := hlen.trans hdlc
  have hnum := hexNum_idChars_of_le_idMax hw hid
  have hval := hexval_hexchar _ hlen15
  have hhex : ∀ b ∈ idChars id (c.idDigits cfg) ++ hexchar data.length :: payloadChars data, ishex b = true := by
    intro b hb
    rcases List.mem_append.1 hb with hb | hb
    · exact idChars_hex _ _ b hb
    · rcases List.mem_cons.1 hb with rfl | hb
      · exact ishex_hexchar _ hlen15
      · exact payloadChars_hex _ b hb
  have hdec := decode_dataLine hc (idChars_length id _) hhex (by rwa [hval]) (by rw [hval, payloadChars_length]) (by rwa [hnum])
  rw [hnum, hval, bytePairs_payloadChars, BitVec.ofNat_toNat, BitVec.setWidth_eq] at hdec
  exact ⟨_, encode_data hc hid hlen, hdec⟩

theorem roundTrips_remote (hw : cfg.wf = true) {c : FrameCmd} (hc : c.isRtr = true) {id : CanId} (hid : id.toNat ≤ c.idMax cfg) :
    (mkInstr c id 0 []).RoundTrips cfg := by
  have hnum := hexNum_idChars_of_le_idMax hw hid
  have hdec := decode_remoteLine hc (idChars_length id _) (idChars_hex id _) (by rwa [hnum])
  rw [hnum, BitVec.ofNat_toNat, BitVec.setWidth_eq] at hdec
  exact ⟨_, encode_remote hc hid, hdec⟩

theorem roundTrips_value (hw : cfg.wf = true) {c : ValueCmd} {x : Nat} (hx : valueFits (valTable cfg c) x = true) :
    (mkValueInstr c x).RoundTrips cfg := by
  obtain ⟨d, hd⟩ := valTab_of_valueFits hx
  obtain ⟨b, hb, hhex, rfl⟩ := valChar_of_valTab hw hd
  exact ⟨_, encode_value hb, decode_valueLine (cmdOfChar_charOfCmd hw (.value c)) hhex hd⟩

theorem roundTrips_plain (hw : cfg.wf = true) (c : PlainCmd) : (mkPlainInstr c).RoundTrips cfg :=
  ⟨_, encode_plain c, decode_plainLine (cmdOfChar_charOfCmd hw (.plain c))⟩

/-- Settles O2: the digits encode writes spell the operands again, and the command byte selects the command again, kind by kind. -/
theorem decodeUndoesEncode : Obligations.DecodeUndoesEncode := by
  intro cfg i hw hi
  cases i with
  | stdData id len data =>
    obtain ⟨hid, hlen, rfl⟩ := by simpa [Instr.wf, idFits, payloadFits] using hi
    exact roundTrips_data hw (c := .stdData) rfl hid hlen
  | extData id len data =>
    obtain ⟨hid, hlen, rfl⟩ := by simpa [Instr.wf, idFits, payloadFits] using hi
    exact roundTrips_data hw (c := .extData) rfl hid hlen
  | stdRemote id => exact roundTrips_remote hw (c := .stdRemote) rfl (of_decide_eq_true hi)
  | extRemote id => exact roundTrips_remote hw (c := .extRemote) rfl (of_decide_eq_true hi)
  | setBitrate v => exact roundTrips_value hw (c := .setBitrate) hi
  | setMode v => exact roundTrips_value hw (c := .setMode) hi
  | setAutoRetry v => exact roundTrips_value hw (c := .setAutoRetry) hi
  | openChannel => exact roundTrips_plain hw .openChannel
  | closeChannel => exact roundTrips_plain hw .closeChannel
  | getVersion => exact roundTrips_plain hw .getVersion
  | reportError => exact roundTrips_plain hw .reportError
  | invalid e => cases hi

end Sys2Proof
end

section
/-! A line that decodes to a valid command is that command's own line up to spelling (R78, R87): what each path of decode asked of the body
when it answered a command, and the digits encode writes for the fields it read. -/

namespace Sys2Proof

variable {cfg : Config}

/-! ## Digits read and written again -/

/-- A digit as encode writes it, in upper case (R102). -/
def upperDigit (b : Byte) : Byte := hexchar (hexval b)

theorem map_upperDigit_map_upperDigit {ds : List Byte} (hds : ∀ b ∈ ds, ishex b = true) :
    (ds.map upperDigit).map upperDigit = ds.map upperDigit := by
  rw [List.map_map]
  exact List.map_congr_left fun b hb => congrArg hexchar (hexval_hexchar _ (hexval_le b (hds b hb)))

theorem hexNum_cons (d : Byte) (ds : List Byte) : hexNum (d :: ds) = hexval d * 16 ^ ds.length + hexNum ds := by
  rw [hexNum, List.foldl_cons, foldl_hexval_eq_sum, ← hexNum_eq_sum, Nat.zero_mul, Nat.zero_add]

/-- Digit `k` of an identifier, counted from the least significant. -/
theorem toNat_idNibble (id : CanId) (k : Nat) : ((id >>> (4 * k)) &&& (0xF : CanId)).toNat = id.toNat / 16 ^ k % 16 := by
  rw [BitVec.toNat_and, BitVec.toNat_ushiftRight, Nat.shiftRight_eq_div_pow, show (0xF : CanId).toNat = 2 ^ 4 - 1 from rfl,
    Nat.and_two_pow_sub_one_eq_mod, pow_mul]
  rfl

/-- An identifier that ends in the digits `ds` is written with these digits, in upper case (R119). -/
theorem idChars_eq_map_upperDigit (id : CanId) (ds : List Byte) (hds : ∀ b ∈ ds, ishex b = true)
    (hid : id.toNat % 16 ^ ds.length = hexNum ds) : idChars id ds.length = ds.map upperDigit := by
  induction ds with
  | nil => rfl
  | cons d rest ih =>
    have hrest : ∀ b ∈ rest, ishex b = true := fun b hb => hds b (by simp [hb])
    have hlt := hexNum_lt rest hrest
    rw [hexNum_cons, List.length_cons, pow_succ] at hid
    have hhead : id.toNat / 16 ^ rest.length % 16 = hexval d := by
      rw [← Nat.mod_mul_right_div_self, hid, Nat.mul_comm, Nat.mul_add_div (by positivity), Nat.div_eq_of_lt hlt, Nat.add_zero]
    have htail : id.toNat % 16 ^ rest.length = hexNum rest := by
      rw [← Nat.mod_mul_right_mod _ _ 16, hid, Nat.mul_comm, Nat.mul_add_mod, Nat.mod_eq_of_lt hlt]
    rw [List.length_cons, idChars, toNat_idNibble, hhead, ih hrest htail]
    rfl

/-- The digits of an identifier that fits its register are written back (R122). -/
theorem idChars_hexNum {ids : List Byte} (hids : ∀ b ∈ ids, ishex b = true) (hlen : ids.length ≤ 8) :
    idChars (BitVec.ofNat 32 (hexNum ids)) ids.length = ids.map upperDigit := by
  have hlt := hexNum_lt ids hids
  have h32 : hexNum ids < 2 ^ 32 := hlt.trans_le (Nat.pow_le_pow_right (by norm_num) hlen)
  exact idChars_eq_map_upperDigit _ ids hids (by rw [BitVec.toNat_ofNat, Nat.mod_eq_of_lt h32, Nat.mod_eq_of_lt hlt])

/-- The high nibble of a byte made of two digits is the first of them (R107). -/
theorem highNibble_of_digits {hi lo : Byte} (hhi : ishex hi = true) (hlo : ishex lo = true) :
    (BitVec.ofNat 8 (hexval hi * 16 + hexval lo) >>> 4).toNat = hexval hi := by
  have := hexval_le lo hlo
  rw [BitVec.toNat_ushiftRight, toNat_byte_of_digits hhi hlo, Nat.shiftRight_eq_div_pow]
  omega

theorem lowNibble_of_digits {hi lo : Byte} (hhi : ishex hi = true) (hlo : ishex lo = true) :
    (BitVec.ofNat 8 (hexval hi * 16 + hexval lo) &&& 0xF).toNat = hexval lo := by
  have := hexval_le lo hlo
  rw [BitVec.toNat_and, toNat_byte_of_digits hhi hlo, show (0xF : Byte).toNat = 2 ^ 4 - 1 from rfl, Nat.and_two_pow_sub_one_eq_mod]
  omega

/-- Digit pairs are written back, high nibble first (R107, R119). -/
theorem payloadChars_bytePairs (n : Nat) (ds : List Byte) (hds : ∀ b ∈ ds, ishex b = true) (hlen : ds.length = 2 * n) :
    payloadChars (bytePairs ds) = ds.map upperDigit := by
  induction n generalizing ds with
  | zero => rw [List.length_eq_zero_iff.1 hlen]; rfl
  | succ n ih =>
    match ds, hlen with
    | hi :: lo :: rest, hlen =>
      have hhi := hds hi (by simp)
      have hlo := hds lo (by simp)
      have hrest := ih rest (fun b hb => hds b (by simp [hb])) (by simp only [List.length_cons] at hlen; omega)
      rw [bytePairs, payloadChars, highNibble_of_digits hhi hlo, lowNibble_of_digits hhi hlo, hrest]
      rfl

/-! ## What decode asked before it answered a valid command -/

section
variable {i : Instr} (hi : ∀ e, i ≠ .invalid e) {c : FrameCmd}
include hi

theorem instr_invalid_ne (e : DecodeError) : Decoded.instr (.invalid e) ≠ .instr i := by
  rintro ⟨⟩
  exact hi e rfl

/-- With excess digits read as invalid, nothing stands behind the last field (R109). -/
theorem checkExcess_valid {j : Instr} {pos m : Nat} (hx : excessReading cfg = some .invalid) (h : checkExcess cfg pos m j = .instr i) :
    m ≤ pos ∧ j = i := by
  unfold checkExcess at h
  split at h
  · rw [hx] at h
    exact absurd h (instr_invalid_ne hi _)
  · cases h
    exact ⟨by omega, rfl⟩

/-- With an identifier out of range read as invalid, the digits are there and spell an identifier in range (R104, R105). -/
theorem decodeFrameCmd_valid {body : List Byte} (hr : idRangeReading cfg = some .invalid) (h : decodeFrameCmd cfg c body = .instr i) :
    ∃ ids rest, body = ids ++ rest ∧ ids.length = c.idDigits cfg ∧ hexNum ids ≤ c.idMax cfg ∧
      decodeAfterId cfg c (BitVec.ofNat 32 (hexNum ids)) (1 + ids.length) (1 + ids.length + rest.length) rest = .instr i := by
  by_cases hlen : body.length < c.idDigits cfg
  · rw [decodeFrameCmd, if_pos hlen] at h
    exact absurd h (instr_invalid_ne hi _)
  · have hids : (body.take (c.idDigits cfg)).length = c.idDigits cfg := List.length_take_of_le (by omega)
    by_cases hmax : hexNum (body.take (c.idDigits cfg)) ≤ c.idMax cfg
    · have hpath := decodeFrameCmd_of_le_idMax (body.drop (c.idDigits cfg)) hids hmax
      rw [List.take_append_drop, h] at hpath
      refine ⟨_, _, (List.take_append_drop (c.idDigits cfg) body).symm, hids, hmax, ?_⟩
      rw [hpath, hids, List.length_drop]
      congr 1
      omega
    · simp only [decodeFrameCmd, if_neg hlen, if_pos (Nat.lt_of_not_le hmax), hr] at h
      exact absurd h (instr_invalid_ne hi _)

/-- A remote command's line ends behind its identifier (R104, R109). -/
theorem decodeAfterId_valid_remote {id : CanId} {pos : Nat} {rest : List Byte} (hx : excessReading cfg = some .invalid)
    (hc : c.isRtr = true) (h : decodeAfterId cfg c id pos (pos + rest.length) rest = .instr i) : rest = [] ∧ mkInstr c id 0 [] = i := by
  rw [decodeAfterId.eq_def, if_pos hc] at h
  obtain ⟨hend, rfl⟩ := checkExcess_valid hi hx h
  exact ⟨List.length_eq_zero_iff.1 (by omega), rfl⟩

/-- A data command's line goes on with a length in range and its digit pairs, and ends there (R106, R107, R109). -/
theorem decodeAfterId_valid_data {id : CanId} {pos : Nat} {rest : List Byte} (hx : excessReading cfg = some .invalid)
    (hc : c.isRtr = false) (h : decodeAfterId cfg c id pos (pos + rest.length) rest = .instr i) :
    ∃ l ds, rest = l :: ds ∧ hexval l ≤ cfg.maxDlc ∧ ds.length = 2 * hexval l ∧ mkInstr c id (hexval l) (bytePairs ds) = i := by
  rw [decodeAfterId.eq_def, if_neg (by simp [hc])] at h
  cases rest with
  | nil => exact absurd h (instr_invalid_ne hi _)
  | cons l ds =>
    dsimp only at h
    split at h
    · exact absurd h (instr_invalid_ne hi _)
    · split at h
      · exact absurd h (instr_invalid_ne hi _)
      · obtain ⟨hend, hinstr⟩ := checkExcess_valid hi hx h
        rw [List.length_cons] at hend
        have hds : ds.length = 2 * hexval l := by omega
        rw [← hds, List.take_length] at hinstr
        exact ⟨l, ds, rfl, by omega, hds, hinstr⟩

end

/-! ## Encode writes the body back -/

/-- Encode writes for the command the listed byte of `cmd`, then the digits of `body` up to their case, then the terminator. -/
def Instr.EncodesAs (cfg : Config) (cmd : Cmd) (body : List Byte) (i : Instr) : Prop :=
  ∃ digits, encode cfg i = some (charOfCmd cfg cmd :: (digits ++ [cfg.terminator])) ∧ digits.map upperDigit = body.map upperDigit

section
variable {i : Instr} {body : List Byte} (hw : cfg.wf = true) (hx : excessReading cfg = some .invalid)
  (hr : idRangeReading cfg = some .invalid) (hi : ∀ e, i ≠ .invalid e)

include hw hx hr hi in
theorem encodesAs_of_decodeFrameCmd (hb : ∀ b ∈ body, ishex b = true) {c : FrameCmd} (h : decodeFrameCmd cfg c body = .instr i) :
    i.EncodesAs cfg (.frame c) body := by
  refine ⟨body.map upperDigit, ?_, map_upperDigit_map_upperDigit hb⟩
  obtain ⟨ids, rest, rfl, hids, hmax, hrest⟩ := decodeFrameCmd_valid hi hr h
  have hid := toNat_ofNat_le_idMax hmax
  have hchars := idChars_hexNum (fun b hm => hb b (by simp [hm])) (hids.trans_le (idDigits_le cfg (wf_wireWf cfg hw) c))
  rw [hids] at hchars
  cases hc : c.isRtr with
  | true =>
    obtain ⟨rfl, rfl⟩ := decodeAfterId_valid_remote hi hx hc hrest
    rw [encode_remote hc hid, hchars, List.append_nil]
    rfl
  | false =>
    obtain ⟨l, ds, rfl, hl, hds, rfl⟩ := decodeAfterId_valid_data hi hx hc hrest
    have hdata := bytePairs_length ds _ hds
    have henc := encode_data hc hid (data := bytePairs ds) (by omega)
    rw [hdata, hchars, payloadChars_bytePairs _ ds (fun b hm => hb b (by simp [hm])) hds] at henc
    rw [henc, List.map_append]
    rfl

include hw hx hi in
/-- The digit is written back up to its case, which is the table's (R160). -/
theorem encodesAs_of_decodeValueCmd {c : ValueCmd} (h : decodeValueCmd cfg c body = .instr i) : i.EncodesAs cfg (.value c) body := by
  cases body with
  | nil => exact absurd h (instr_invalid_ne hi _)
  | cons d rest =>
    cases hval : valTab cfg c (hexval d) with
    | none =>
      simp only [decodeValueCmd, hval] at h
      exact absurd h (instr_invalid_ne hi _)
    | some x =>
      simp only [decodeValueCmd, hval] at h
      obtain ⟨hend, rfl⟩ := checkExcess_valid hi hx h
      obtain ⟨b, hchar, -, hbd⟩ := valChar_of_valTab hw hval
      obtain rfl : rest = [] := List.length_eq_zero_iff.1 (by simp only [List.length_cons] at hend; omega)
      exact ⟨[b], encode_value hchar, by simp [upperDigit, hbd]⟩

include hx hi in
theorem encodesAs_of_decodePlain {c : PlainCmd} (h : checkExcess cfg 1 (1 + body.length) (mkPlainInstr c) = .instr i) :
    i.EncodesAs cfg (.plain c) body := by
  obtain ⟨hend, rfl⟩ := checkExcess_valid hi hx h
  obtain rfl : body = [] := List.length_eq_zero_iff.1 (by omega)
  exact ⟨[], encode_plain c, rfl⟩

include hw hx hr hi in
theorem encodesAs_of_decodeLine {ch : Byte} (h : decodeLine cfg ch body = .instr i) :
    ∃ cmd, cmdOfChar cfg ch = some cmd ∧ i.EncodesAs cfg cmd body := by
  cases hch : cmdOfChar cfg ch with
  | none =>
    simp only [decodeLine, hch] at h
    exact absurd h (instr_invalid_ne hi _)
  | some cmd =>
    cases hbad : firstBad 1 body with
    | some bad =>
      simp only [decodeLine, hch, hbad] at h
      exact absurd h (instr_invalid_ne hi _)
    | none =>
      have hb := (firstBad_eq_none 1 body).1 hbad
      rw [decodeLine_of_hex cfg ch cmd body hch hb] at h
      refine ⟨cmd, rfl, ?_⟩
      cases cmd with
      | frame c => exact encodesAs_of_decodeFrameCmd hw hx hr hi hb h
      | value c => exact encodesAs_of_decodeValueCmd hw hx hi h
      | plain c => exact encodesAs_of_decodePlain hx hi h

end

/-! ## Lines up to spelling -/

theorem canonicalLine_of_cmd {ch : Byte} {cmd : Cmd} (hch : cmdOfChar cfg ch = some cmd) (tail : List Byte) :
    canonicalLine cfg (ch :: tail) = charOfCmd cfg cmd :: ((stripCr cfg tail).map upperDigit ++ [cfg.terminator]) := by
  rw [canonicalLine, hch]
  rfl

/-- Settles O4: decode read the whole body, and encode writes every digit of it back, up to case, behind the command's listed byte. -/
theorem encodeOfDecodeIsTheLineUpToCase : Obligations.EncodeOfDecodeIsTheLineUpToCase := by
  intro cfg buf i hw hexcess hrange hdec hi
  have hx : excessReading cfg = some .invalid := by rw [excessReading, hexcess]
  have hr : idRangeReading cfg = some .invalid := by rw [idRangeReading, hrange]
  match buf with
  | [] => cases hdec
  | [_] => cases hdec
  | ch :: b :: rest =>
    obtain ⟨cmd, hch, digits, henc, hdigits⟩ := encodesAs_of_decodeLine hw hx hr hi hdec
    refine ⟨_, henc, ?_⟩
    rw [canonicalLine_of_cmd (cmdOfChar_charOfCmd hw cmd), canonicalLine_of_cmd hch, stripCr_append_terminator, hdigits]

end Sys2Proof
end

section
/-! What decode does not see: the case of a digit, and whether the terminator is there (R70, R79, R103). Every path reads the body through
`hexval` only, and the validation pass through `ishex` only. Then the lines written out byte by byte (R72 to R78). -/

namespace Sys2Proof

variable {cfg : Config} {body body' : List Byte}

/-! ## Each path reads the digit values only -/

theorem hexNum_eq_foldl_map (ds : List Byte) : hexNum ds = (ds.map hexval).foldl (fun acc v => acc * 16 + v) 0 := by
  rw [hexNum, List.foldl_map]

theorem length_eq_of_map_hexval_eq (h : body.map hexval = body'.map hexval) : body.length = body'.length := by
  simpa only [List.length_map] using congrArg List.length h

theorem bytePairs_congr : ∀ {ds ds' : List Byte}, ds.map hexval = ds'.map hexval → bytePairs ds = bytePairs ds'
  | [], [], _ => rfl
  | [_], [_], _ => rfl
  | [_], _ :: _ :: _, h => by simp at h
  | _ :: _ :: _, [_], h => by simp at h
  | hi :: lo :: rest, hi' :: lo' :: rest', h => by
    simp only [List.map_cons, List.cons.injEq] at h
    obtain ⟨hhi, hlo, hrest⟩ := h
    rw [bytePairs, bytePairs, hhi, hlo, bytePairs_congr hrest]

theorem decodeAfterId_congr (c : FrameCmd) (id : CanId) (pos m : Nat) (h : body.map hexval = body'.map hexval) :
    decodeAfterId cfg c id pos m body = decodeAfterId cfg c id pos m body' := by
  match body, body', h with
  | [], [], _ => rfl
  | d :: digits, d' :: digits', h =>
    rw [List.map_cons, List.map_cons, List.cons.injEq] at h
    obtain ⟨hd, hdigits⟩ := h
    have hlen := length_eq_of_map_hexval_eq hdigits
    have hpairs (n : Nat) : bytePairs (digits.take n) = bytePairs (digits'.take n) :=
      bytePairs_congr (by rw [List.map_take, List.map_take, hdigits])
    simp only [decodeAfterId, hd, hlen, hpairs]

theorem decodeFrameCmd_congr (c : FrameCmd) (h : body.map hexval = body'.map hexval) :
    decodeFrameCmd cfg c body = decodeFrameCmd cfg c body' := by
  have hlen := length_eq_of_map_hexval_eq h
  have hnum : hexNum (body.take (c.idDigits cfg)) = hexNum (body'.take (c.idDigits cfg)) := by
    rw [hexNum_eq_foldl_map, hexNum_eq_foldl_map, List.map_take, List.map_take, h]
  have hrest (id : CanId) (pos m : Nat) : decodeAfterId cfg c id pos m (body.drop (c.idDigits cfg)) =
      decodeAfterId cfg c id pos m (body'.drop (c.idDigits cfg)) :=
    decodeAfterId_congr c id pos m (by rw [List.map_drop, List.map_drop, h])
  simp only [decodeFrameCmd, hlen, hnum, hrest]

theorem decodeValueCmd_congr (c : ValueCmd) (h : body.map hexval = body'.map hexval) :
    decodeValueCmd cfg c body = decodeValueCmd cfg c body' := by
  match body, body', h with
  | [], [], _ => rfl
  | d :: digits, d' :: digits', h =>
    have hlen := length_eq_of_map_hexval_eq h
    rw [List.map_cons, List.map_cons, List.cons.injEq] at h
    simp only [decodeValueCmd, h.1, hlen]

theorem decodeBody_congr (cmd : Cmd) (h : body.map hexval = body'.map hexval) : decodeBody cfg cmd body = decodeBody cfg cmd body' := by
  cases cmd with
  | frame c => exact decodeFrameCmd_congr c h
  | value c => exact decodeValueCmd_congr c h
  | plain c => simp only [decodeBody, length_eq_of_map_hexval_eq h]

/-- Bodies in which validation finds the same and whose digit values agree decode alike under every command byte. -/
theorem decodeLine_congr (ch : Byte) (hbad : firstBad 1 body = firstBad 1 body') (h : body.map hexval = body'.map hexval) :
    decodeLine cfg ch body = decodeLine cfg ch body' := by
  simp only [decodeLine, hbad, decodeBody_congr _ h]

/-! ## The validation pass reads the alphabet only -/

/-- One hex digit in place of another is not noticed, whatever stands beside it. -/
theorem firstBad_replace_digit {b b' : Byte} (hb : ishex b = true) (hb' : ishex b' = true) (before after : List Byte) (pos : Nat) :
    firstBad pos (before ++ b :: after) = firstBad pos (before ++ b' :: after) := by
  induction before generalizing pos with
  | nil => simp only [List.nil_append, firstBad, hb, hb', if_true]
  | cons x rest ih => simp only [List.cons_append, firstBad, ih]

/-- The letters of R79 in lower case, each with its upper-case form 0x20 below. -/
theorem lowerCase_digit : ∀ b ∈ ([0x61, 0x62, 0x63, 0x64, 0x65, 0x66] : List Byte),
    ishex b = true ∧ ishex (b - 0x20) = true ∧ hexval b = hexval (b - 0x20) := by decide

theorem decode_lowerCase (ch : Byte) {b : Byte} (before after : List Byte) (hb : b ∈ ([0x61, 0x62, 0x63, 0x64, 0x65, 0x66] : List Byte)) :
    decode cfg (ch :: (before ++ b :: after ++ [cfg.terminator])) = decode cfg (ch :: (before ++ (b - 0x20) :: after ++ [cfg.terminator])) := by
  obtain ⟨hlower, hupper, hval⟩ := lowerCase_digit b hb
  rw [decode_line, decode_line]
  exact decodeLine_congr ch (firstBad_replace_digit hlower hupper before after 1) (by simp only [List.map_append, List.map_cons, hval])

theorem decode_digitValues (ch : Byte) (hb : ∀ b ∈ body, ishex b = true) (hb' : ∀ b ∈ body', ishex b = true)
    (h : body.map hexval = body'.map hexval) :
    decode cfg (ch :: (body ++ [cfg.terminator])) = decode cfg (ch :: (body' ++ [cfg.terminator])) := by
  rw [decode_line, decode_line]
  exact decodeLine_congr ch (by rw [(firstBad_eq_none 1 body).2 hb, (firstBad_eq_none 1 body').2 hb']) h

/-- A body of hex digits does not end in the terminator, so nothing is stripped of it (R70). -/
theorem decode_without_terminator (ch : Byte) (hb : ∀ b ∈ body, ishex b = true) (hne : body ≠ []) (hT : ishex cfg.terminator = false) :
    decode cfg (ch :: body) = decode cfg (ch :: (body ++ [cfg.terminator])) := by
  rw [decode_line]
  match body, hne with
  | b :: rest, _ => exact congrArg (decodeLine cfg ch) (stripCr_of_hex cfg hT (b :: rest) hb)

/-- Settles O12: the alphabet by its 256 bytes; for decode, every path reads digit values only. -/
theorem caseAndTerminatorDoNotMatter : Obligations.CaseAndTerminatorDoNotMatter :=
  ⟨by decide, by decide, by decide, fun _ ch _ before after hb => decode_lowerCase ch before after hb,
    fun _ ch _ _ hb hb' h => ⟨decode_digitValues ch hb hb' h, decode_without_terminator ch hb⟩⟩

/-! ## Lines written out -/

/-- Settles O1 by evaluation: no line has excess digits or an identifier out of range, so none asks for a reading that is left free. -/
theorem writtenOutLinesDecode : Obligations.WrittenOutLinesDecode := by
  unfold Obligations.WrittenOutLinesDecode
  decide

end Sys2Proof
end

section
/-! Sizes, and what encode writes into a buffer (R116 to R119, R123): the bounds of the sizing function, the bytes of a frame command's
line, and the round trip of a Frame through a buffer of the largest size. -/

namespace Sys2Proof

variable {cfg : Config}

/-! ## The sizing function -/

/-- A size is one of six forms, by the kind of the Frame (R116). -/
theorem size_cases {F : Frame} {n : Nat} (h : size cfg F = some n) :
    (∃ f, F = .bus f ∧ f.cmd = .stdData ∧ n = cfg.stdIdDigits + 3 + 2 * f.len) ∨
    (∃ f, F = .bus f ∧ f.cmd = .extData ∧ n = cfg.extIdDigits + 3 + 2 * f.len) ∨
    (∃ f, F = .bus f ∧ f.cmd = .stdRemote ∧ n = cfg.stdIdDigits + 2) ∨
    (∃ f, F = .bus f ∧ f.cmd = .extRemote ∧ n = cfg.extIdDigits + 2) ∨
    (∃ c v, F = .value c v ∧ n = 3) ∨ (∃ c, F = .plain c ∧ n = 2) := by
  cases F with
  | bus f => cases hc : f.cmd <;> simp_all [size]
  | value c v => simp_all [size]
  | plain c => simp_all [size]
  | invalid => cases h

/-- No size is above the largest, as long as the length is within `MAX_DLC` (R118). -/
theorem size_le_maxSize {F : Frame} {n : Nat} (hlen : ∀ f, F = .bus f → f.len ≤ cfg.maxDlc) (h : size cfg F = some n) :
    n ≤ cfg.maxSize := by
  unfold Config.maxSize
  rcases size_cases h with ⟨f, rfl, -, rfl⟩ | ⟨f, rfl, -, rfl⟩ | ⟨f, rfl, -, rfl⟩ | ⟨f, rfl, -, rfl⟩ | ⟨c, v, rfl, rfl⟩ | ⟨c, rfl, rfl⟩
  · have := hlen f rfl
    omega
  · have := hlen f rfl
    omega
  all_goals omega

theorem two_le_size {F : Frame} {n : Nat} (h : size cfg F = some n) : 2 ≤ n := by
  rcases size_cases h with ⟨f, -, -, rfl⟩ | ⟨f, -, -, rfl⟩ | ⟨f, -, -, rfl⟩ | ⟨f, -, -, rfl⟩ | ⟨c, v, -, rfl⟩ | ⟨c, -, rfl⟩ <;> omega

/-- With the constants of R5 the largest size is 27 (R118). -/
theorem maxSize_eq_27 (hs : cfg.stdIdDigits = 3) (he : cfg.extIdDigits = 8) (hd : cfg.maxDlc = 8) : cfg.maxSize = 27 := by
  simp [Config.maxSize, hs, he, hd]

/-- With the constants of R5 only the longest extended data Frame attains the largest size (R118). -/
theorem size_eq_27_iff {F : Frame} {n : Nat} (hs : cfg.stdIdDigits = 3) (he : cfg.extIdDigits = 8) (hd : cfg.maxDlc = 8)
    (hlen : ∀ f, F = .bus f → f.len ≤ cfg.maxDlc) (h : size cfg F = some n) :
    n = 27 ↔ ∃ f, F = .bus f ∧ f.cmd = .extData ∧ f.len = 8 := by
  rcases size_cases h with ⟨f, rfl, hc, rfl⟩ | ⟨f, rfl, hc, rfl⟩ | ⟨f, rfl, hc, rfl⟩ | ⟨f, rfl, hc, rfl⟩ | ⟨c, v, rfl, rfl⟩ | ⟨c, rfl, rfl⟩
  · have := hlen f rfl
    simp [hc]
    omega
  · simp [hc, he]
    omega
  all_goals simp_all

/-- Settles O14: the six forms of a size, bounded one by one. -/
theorem sizeBounds : Obligations.SizeBounds := by
  refine fun cfg => ⟨fun F n hlen h => ⟨two_le_size h, size_le_maxSize hlen h, fun hs he hd => ⟨?_, ?_, size_eq_27_iff hs he hd hlen h⟩⟩,
    fun _ => rfl⟩
  · exact (size_le_maxSize hlen h).trans_eq (maxSize_eq_27 hs he hd)
  · rintro f rfl hc
    have hle := hlen f rfl
    simp only [size, hc, Option.some.injEq] at h
    omega

/-- Settles O13: what is written is the Frame's line, and the sizing function gives the line's length. -/
theorem encodeWritesExactlySizeBytes : Obligations.EncodeWritesExactlySizeBytes :=
  fun _ _ _ _ h => size_of_encodeFrame (Machine.encodeFrame_of_written h)

/-- Settles O15: the capacity is compared with the length of the line, which is the size. -/
theorem encodeFailsBelowSize : Obligations.EncodeFailsBelowSize := by
  intro cfg F need cap bytes hsize hline
  obtain rfl : bytes.length = need := Option.some.inj ((size_of_encodeFrame hline).symm.trans hsize)
  rw [encodeCap_of_encodeFrame cap hline]
  exact ⟨fun h => if_neg (Nat.not_lt.2 h), fun h => if_pos h⟩

/-! ## The bytes of a frame command's line -/

/-- The identifier's digits by position, most significant first (R119). -/
theorem idChars_eq_map_range (id : CanId) (k : Nat) :
    idChars id k = (List.range k).map fun j => hexchar (id.toNat / 16 ^ (k - 1 - j) % 16) := by
  induction k with
  | zero => rfl
  | succ k ih =>
    have hexp (j : Nat) : k - 1 - j = k - (j + 1) := by omega
    simp only [idChars, toNat_idNibble, ih, List.range_succ_eq_map, List.map_cons, List.map_map, Function.comp_def,
      Nat.add_sub_cancel, Nat.sub_zero, hexp]

theorem payloadChars_eq_flatMap (data : List Byte) :
    payloadChars data = data.flatMap fun b => [hexchar (b.toNat / 16), hexchar (b.toNat % 16)] := by
  induction data with
  | nil => rfl
  | cons b rest ih =>
    have hhi : (b >>> 4).toNat = b.toNat / 16 := by rw [BitVec.toNat_ushiftRight, Nat.shiftRight_eq_div_pow]
    have hlo : (b &&& 0xF).toNat = b.toNat % 16 := by
      rw [BitVec.toNat_and, show (0xF : Byte).toNat = 2 ^ 4 - 1 from rfl, Nat.and_two_pow_sub_one_eq_mod]
    rw [payloadChars, hhi, hlo, ih]
    rfl

/-- Settles O16: each command's line by its fields, with the digits of the identifier and of the payload spelled out. -/
theorem frameLineBytes : Obligations.FrameLineBytes := by
  intro cfg id data hlen
  simp only [← idChars_eq_map_range, ← payloadChars_eq_flatMap]
  refine ⟨fun hid => ⟨?_, ?_⟩, fun hid => ⟨?_, ?_⟩⟩
  · exact encode_remote (c := .stdRemote) rfl hid
  · simpa [mkInstr, charOfFrameCmd] using encode_data (c := .stdData) rfl hid hlen
  · exact encode_remote (c := .extRemote) rfl hid
  · simpa [mkInstr, charOfFrameCmd] using encode_data (c := .extData) rfl hid hlen

/-! ## The round trip of a Frame -/

theorem mkInstr_frame {c : FrameCmd} {id : CanId} {len : Nat} {data : List Byte} (h : c.isRtr = true → len = 0 ∧ data = []) :
    (mkInstr c id len data).frame = .bus (mkBusFrame c id len data) := by
  cases c with
  | stdData => rfl
  | extData => rfl
  | stdRemote => obtain ⟨rfl, rfl⟩ := h rfl; rfl
  | extRemote => obtain ⟨rfl, rfl⟩ := h rfl; rfl

theorem mkValueInstr_frame (c : ValueCmd) (v : Nat) : (mkValueInstr c v).frame = .value c v := by cases c <;> rfl

theorem mkPlainInstr_frame (c : PlainCmd) : (mkPlainInstr c).frame = .plain c := by cases c <;> rfl

/-- A frame command's Frame whose flags agree with its tag is made of its other fields. -/
theorem eq_mkBusFrame {f : BusFrame} (hext : f.ext = f.cmd.isExt) (hrtr : f.rtr = f.cmd.isRtr) :
    f = mkBusFrame f.cmd f.id f.len f.data := by
  rw [mkBusFrame, ← hext, ← hrtr]

/-- The Frames of R123 are the Frames of the well-formed commands. -/
theorem exists_instr_of_roundTrips {F : Frame} (h : F.roundTrips cfg) : ∃ i : Instr, i.wf cfg = true ∧ i.frame = F := by
  cases F with
  | bus f =>
    obtain ⟨hwf, hremote⟩ := h
    obtain ⟨hext, hrtr, hid, hlen, hdata⟩ := (busFrame_wf_iff cfg f).1 hwf
    have hempty : f.cmd.isRtr = true → f.len = 0 ∧ f.data = [] :=
      fun hc => ⟨hremote hc, List.length_eq_zero_iff.1 (hdata.trans (hremote hc))⟩
    exact ⟨mkInstr f.cmd f.id f.len f.data, mkInstr_wf hid hlen hdata,
      (mkInstr_frame hempty).trans (congrArg _ (eq_mkBusFrame hext hrtr).symm)⟩
  | value c v =>
    obtain ⟨d, -, hd⟩ := h
    exact ⟨mkValueInstr c v, mkValueInstr_wf (valueFits_of_valTab hd), mkValueInstr_frame c v⟩
  | plain c => exact ⟨mkPlainInstr c, mkPlainInstr_wf c, mkPlainInstr_frame c⟩
  | invalid => exact h.elim

theorem len_le_maxDlc_of_roundTrips {F : Frame} (h : F.roundTrips cfg) : ∀ f, F = .bus f → f.len ≤ cfg.maxDlc := by
  rintro f rfl
  obtain ⟨-, -, -, hlen, -⟩ := (busFrame_wf_iff cfg f).1 h.1
  exact hlen

/-- Settles O3: the Frame is that of a well-formed command, whose line decodes to the command and fits a buffer of the largest size. -/
theorem frameRoundTrip : Obligations.FrameRoundTrip := by
  refine ⟨fun cfg F cap hw hF hcap => ?_, fun cfg hs he hd => maxSize_eq_27 hs he hd⟩
  obtain ⟨i, hi, rfl⟩ := exists_instr_of_roundTrips hF
  obtain ⟨line, henc, hdec⟩ := decodeUndoesEncode cfg i hw hi
  have hfits : line.length ≤ cfg.maxSize := size_le_maxSize (len_le_maxDlc_of_roundTrips hF) (size_of_encodeFrame henc)
  exact ⟨line, i, (encodeCap_of_encodeFrame cap henc).trans (if_neg (by omega)), hdec, rfl⟩

end Sys2Proof
end

section
/-! What a failing decode reports (R103, R240 to R243): which causes each path can answer at all, and which cause it answers on a body that
fails there. -/

namespace Sys2Proof

variable {cfg : Config}

/-! ## The causes behind the validation pass -/

/-- A cause that a command's path may report once the body is validated: `E_ID_RANGE` and `E_EXCESS` under their policy's reading `invalid`
only, the two causes of the passes before it never (R105, R109, R249). -/
def DecodeError.Structural (cfg : Config) : DecodeError → Prop
  | .badCmd _ => False
  | .badChar _ _ => False
  | .idRange _ => idRangeReading cfg = some .invalid
  | .excess _ _ => excessReading cfg = some .invalid
  | .shortId _ | .shortDlc _ | .dlcRange _ | .shortData _ _ | .shortValue _ | .badValue _ => True

/-- If the answer is Invalid, its cause is structural. -/
def Decoded.FailsStructurally (cfg : Config) (d : Decoded) : Prop := ∀ e, d = .instr (.invalid e) → e.Structural cfg

theorem failsStructurally_refuse (r : DecodeRefusal) : (Decoded.refuse r).FailsStructurally cfg := fun _ h => nomatch h

theorem failsStructurally_invalid {e : DecodeError} (he : e.Structural cfg) : (Decoded.instr (.invalid e)).FailsStructurally cfg := by
  rintro _ ⟨⟩
  exact he

theorem failsStructurally_valid {i : Instr} (hi : ∀ e, i ≠ .invalid e) : (Decoded.instr i).FailsStructurally cfg :=
  fun e h => absurd (Decoded.instr.inj h) (hi e)

theorem failsStructurally_checkExcess {i : Instr} (pos m : Nat) (hi : ∀ e, i ≠ .invalid e) :
    (checkExcess cfg pos m i).FailsStructurally cfg := by
  unfold checkExcess
  split
  · cases hx : excessReading cfg with
    | none => exact failsStructurally_refuse _
    | some r =>
      cases r with
      | invalid => exact failsStructurally_invalid hx
      | ignore => exact failsStructurally_valid hi
  · exact failsStructurally_valid hi

theorem mkInstr_ne_invalid (c : FrameCmd) (id : CanId) (len : Nat) (data : List Byte) (e : DecodeError) :
    mkInstr c id len data ≠ .invalid e := by
  cases c <;> exact nofun

theorem mkValueInstr_ne_invalid (c : ValueCmd) (v : Nat) (e : DecodeError) : mkValueInstr c v ≠ .invalid e := by cases c <;> exact nofun

theorem mkPlainInstr_ne_invalid (c : PlainCmd) (e : DecodeError) : mkPlainInstr c ≠ .invalid e := by cases c <;> exact nofun

theorem failsStructurally_decodeAfterId (c : FrameCmd) (id : CanId) (pos m : Nat) (rest : List Byte) :
    (decodeAfterId cfg c id pos m rest).FailsStructurally cfg := by
  unfold decodeAfterId
  split
  · exact failsStructurally_checkExcess _ _ (mkInstr_ne_invalid _ _ _ _)
  · split
    · exact failsStructurally_invalid trivial
    · dsimp only
      split
      · exact failsStructurally_invalid trivial
      · split
        · exact failsStructurally_invalid trivial
        · exact failsStructurally_checkExcess _ _ (mkInstr_ne_invalid _ _ _ _)

theorem failsStructurally_decodeFrameCmd (c : FrameCmd) (body : List Byte) : (decodeFrameCmd cfg c body).FailsStructurally cfg := by
  unfold decodeFrameCmd
  dsimp only
  split
  · exact failsStructurally_invalid trivial
  · split
    · cases hr : idRangeReading cfg with
      | none => exact failsStructurally_refuse _
      | some r =>
        cases r with
        | invalid => exact failsStructurally_invalid hr
        | keep => exact failsStructurally_decodeAfterId _ _ _ _ _
        | mask => exact failsStructurally_decodeAfterId _ _ _ _ _
    · exact failsStructurally_decodeAfterId _ _ _ _ _

theorem failsStructurally_decodeValueCmd (c : ValueCmd) (body : List Byte) : (decodeValueCmd cfg c body).FailsStructurally cfg := by
  unfold decodeValueCmd
  split
  · exact failsStructurally_invalid trivial
  · split
    · exact failsStructurally_invalid trivial
    · exact failsStructurally_checkExcess _ _ (mkValueInstr_ne_invalid _ _)

/-- Behind the validation pass decode fails for structural causes only (R249). -/
theorem failsStructurally_decodeBody (cmd : Cmd) (body : List Byte) : (decodeBody cfg cmd body).FailsStructurally cfg := by
  cases cmd with
  | frame c => exact failsStructurally_decodeFrameCmd c body
  | value c => exact failsStructurally_decodeValueCmd c body
  | plain c => exact failsStructurally_checkExcess _ _ (mkPlainInstr_ne_invalid c)

/-! ## The command byte and the validation pass -/

theorem decode_of_ne_nil (c : Byte) {tail : List Byte} (h : tail ≠ []) : decode cfg (c :: tail) = decodeLine cfg c (stripCr cfg tail) := by
  obtain ⟨b, rest, rfl⟩ := List.exists_cons_of_ne_nil h
  rfl

theorem decodeLine_badCmd {c : Byte} (h : cmdOfChar cfg c = none) (body : List Byte) :
    decodeLine cfg c body = .instr (.invalid (.badCmd c)) := by simp only [decodeLine, h]

/-- Settles O7: the command byte is looked up before the body is read. -/
theorem unknownCommandByteIsInvalid : Obligations.UnknownCommandByteIsInvalid :=
  fun _ c b rest h => (decode_of_ne_nil c (List.cons_ne_nil b rest)).trans (decodeLine_badCmd h _)

theorem le_of_firstBad_eq_some {pos n : Nat} {b : Byte} {body : List Byte} (h : firstBad pos body = some (n, b)) : pos ≤ n := by
  induction body generalizing pos with
  | nil => cases h
  | cons x rest ih =>
    unfold firstBad at h
    split at h
    · exact (Nat.le_succ pos).trans (ih h)
    · cases h
      exact le_rfl

/-- The validation pass finds the byte at position `p` of the body if that is no hex digit and every byte before it is one (R242). -/
theorem firstBad_eq_some (pos p : Nat) (b : Byte) (body : List Byte) :
    firstBad pos body = some (pos + p, b) ↔
      body[p]? = some b ∧ ishex b = false ∧ ∀ q, q < p → ∀ d, body[q]? = some d → ishex d = true := by
  induction body generalizing pos p with
  | nil => simp [firstBad]
  | cons x rest ih =>
    cases hx : ishex x with
    | true =>
      cases p with
      | zero =>
        have hlater : firstBad (pos + 1) rest ≠ some (pos, b) := fun h => absurd (le_of_firstBad_eq_some h) (by omega)
        simp only [firstBad, hx, if_true, Nat.add_zero, hlater, false_iff]
        rintro ⟨⟨⟩, hnot, -⟩
        simp [hx] at hnot
      | succ p =>
        have hend : pos + (p + 1) = pos + 1 + p := by omega
        rw [Nat.forall_lt_succ_left]
        simp [firstBad, hx, hend, ih]
    | false =>
      cases p with
      | zero =>
        have hfirst : x = b ↔ x = b ∧ ishex b = false := ⟨fun h => ⟨h, h ▸ hx⟩, And.left⟩
        simpa [firstBad, hx] using hfirst
      | succ p =>
        rw [Nat.forall_lt_succ_left]
        simp [firstBad, hx]

/-- Behind a valid command byte `E_BADCHAR` is what the validation pass finds, and nothing else (R242, R249). -/
theorem decodeLine_badChar_iff {c : Byte} {cmd : Cmd} (hc : cmdOfChar cfg c = some cmd) (body : List Byte) (pos : Nat) (b : Byte) :
    decodeLine cfg c body = .instr (.invalid (.badChar pos b)) ↔ firstBad 1 body = some (pos, b) := by
  cases hbad : firstBad 1 body with
  | none =>
    simp only [decodeLine, hc, hbad, reduceCtorEq, iff_false]
    exact failsStructurally_decodeBody cmd body (.badChar pos b)
  | some bad => simp [decodeLine, hc, hbad, Prod.ext_iff]

/-- Settles O8: behind the validation pass nothing answers `E_BADCHAR`, and the pass stops at the first byte that is no hex digit. -/
theorem nonHexBodyByteIsInvalid : Obligations.NonHexBodyByteIsInvalid := by
  intro cfg c cmd tail p b htail hc
  rw [decode_of_ne_nil c htail, decodeLine_badChar_iff hc, Nat.add_comm p 1, firstBad_eq_some]

/-! ## The structural causes -/

section
variable {c : FrameCmd} {body : List Byte}

theorem decodeFrameCmd_shortId (h : body.length < c.idDigits cfg) : decodeFrameCmd cfg c body = .instr (.invalid (.shortId 1)) := by
  simp only [decodeFrameCmd, if_pos h]

theorem decodeAfterId_shortDlc (hc : c.isRtr = false) (id : CanId) (pos m : Nat) :
    decodeAfterId cfg c id pos m [] = .instr (.invalid (.shortDlc pos)) := by simp [decodeAfterId, hc]

theorem decodeAfterId_dlcRange (hc : c.isRtr = false) {l : Byte} (hl : cfg.maxDlc < hexval l) (id : CanId) (pos m : Nat) (ds : List Byte) :
    decodeAfterId cfg c id pos m (l :: ds) = .instr (.invalid (.dlcRange (hexval l))) := by simp [decodeAfterId, hc, hl]

theorem decodeAfterId_shortData (hc : c.isRtr = false) {l : Byte} {ds : List Byte} (hl : hexval l ≤ cfg.maxDlc)
    (hds : ds.length < 2 * hexval l) (id : CanId) (pos m : Nat) :
    decodeAfterId cfg c id pos m (l :: ds) = .instr (.invalid (.shortData (hexval l) ds.length)) := by
  simp [decodeAfterId, hc, Nat.not_lt.2 hl, hds]

/-- An identifier in range is read, and the path goes on behind its digits (R105). -/
theorem decodeFrameCmd_of_take_le_idMax (hlen : c.idDigits cfg ≤ body.length) (hmax : hexNum (body.take (c.idDigits cfg)) ≤ c.idMax cfg) :
    decodeFrameCmd cfg c body = decodeAfterId cfg c (BitVec.ofNat 32 (hexNum (body.take (c.idDigits cfg)))) (1 + c.idDigits cfg)
      (1 + body.length) (body.drop (c.idDigits cfg)) := by
  have h := decodeFrameCmd_of_le_idMax (body.drop (c.idDigits cfg)) (List.length_take_of_le hlen) hmax
  rwa [List.take_append_drop] at h

end

/-- Behind the command byte, a body of hex digits fails for structural causes only. -/
theorem decodeLine_structural {ch : Byte} {body : List Byte} (hb : ∀ b ∈ body, ishex b = true) {e : DecodeError}
    (hcmd : ∀ c, e ≠ .badCmd c) (h : decodeLine cfg ch body = .instr (.invalid e)) : e.Structural cfg := by
  cases hch : cmdOfChar cfg ch with
  | none =>
    rw [decodeLine_badCmd hch] at h
    cases h
    exact absurd rfl (hcmd ch)
  | some cmd =>
    rw [decodeLine_of_hex cfg ch cmd body hch hb] at h
    exact failsStructurally_decodeBody cmd body e h

/-- Settles O9: on a body of hex digits decode is the command's path, which answers each cause where it stands. -/
theorem structuralFailuresAreInvalid : Obligations.StructuralFailuresAreInvalid := by
  intro cfg ch body hb
  have hpath (cmd : Cmd) (hch : cmdOfChar cfg ch = some cmd) := decodeLine_of_hex cfg ch cmd body hch hb
  rw [decode_line]
  refine ⟨fun c hch hshort => (hpath _ hch).trans (decodeFrameCmd_shortId hshort), fun c hch hrtr hlen hmax => ?_, fun c hch => ?_,
    fun n => decodeLine_structural hb nofun, fun pos m => decodeLine_structural hb nofun⟩
  · have hframe := (hpath _ hch).trans (decodeFrameCmd_of_take_le_idMax hlen hmax)
    refine ⟨fun hend => ?_, fun l ds hdrop => ⟨fun hl => ?_, fun hl hds => ?_⟩⟩
    · rw [hframe, ← hend, List.drop_length]
      exact decodeAfterId_shortDlc hrtr ..
    · rw [hframe, hdrop]
      exact decodeAfterId_dlcRange hrtr hl ..
    · rw [hframe, hdrop]
      exact decodeAfterId_shortData hrtr hl hds ..
  · refine ⟨?_, ?_⟩
    · rintro rfl
      exact hpath _ hch
    · rintro d rest rfl hundefined
      rw [hpath _ hch]
      simp only [decodeBody, decodeValueCmd, hundefined]

end Sys2Proof
end

section
/-! The two open policies (R105, R109): digits behind the last field of a command's own line, and an identifier above its width's maximum. -/

namespace Sys2Proof

variable {cfg : Config}

/-! ## Digits behind the last field -/

/-- The command has the line `line` up to its terminator, and further hex digits behind it are left to the excess check: the cursor stands
at the end of `line`. -/
def Instr.LineEndsAt (cfg : Config) (i : Instr) (line : List Byte) : Prop :=
  encode cfg i = some (line ++ [cfg.terminator]) ∧
    ∀ extra, (∀ b ∈ extra, ishex b = true) →
      decode cfg (line ++ extra ++ [cfg.terminator]) = checkExcess cfg line.length (line.length + extra.length) i

/-- A line of a command byte and a body of hex digits ends where the command's path stops reading. -/
theorem lineEndsAt_of_decodeBody {i : Instr} {ch : Byte} {cmd : Cmd} {body : List Byte} (hch : cmdOfChar cfg ch = some cmd)
    (hb : ∀ b ∈ body, ishex b = true) (henc : encode cfg i = some (ch :: (body ++ [cfg.terminator])))
    (hpath : ∀ extra : List Byte,
      decodeBody cfg cmd (body ++ extra) = checkExcess cfg (body.length + 1) (body.length + 1 + extra.length) i) :
    i.LineEndsAt cfg (ch :: body) := by
  refine ⟨henc, fun extra hextra => ?_⟩
  have hhex : ∀ b ∈ body ++ extra, ishex b = true := fun b hm => (List.mem_append.1 hm).elim (hb b) (hextra b)
  exact (decode_line cfg ch (body ++ extra)).trans ((decodeLine_of_hex cfg ch cmd _ hch hhex).trans (hpath extra))

theorem ofNat_hexNum_idChars (hw : cfg.wf = true) {c : FrameCmd} {id : CanId} (hid : id.toNat ≤ c.idMax cfg) :
    BitVec.ofNat 32 (hexNum (idChars id (c.idDigits cfg))) = id := by
  rw [hexNum_idChars_of_le_idMax hw hid, BitVec.ofNat_toNat, BitVec.setWidth_eq]

/-- The digits of an identifier in range are read as that identifier, whatever stands behind them. -/
theorem decodeFrameCmd_idChars (hw : cfg.wf = true) {c : FrameCmd} {id : CanId} (hid : id.toNat ≤ c.idMax cfg) (rest : List Byte) :
    decodeFrameCmd cfg c (idChars id (c.idDigits cfg) ++ rest) =
      decodeAfterId cfg c id (1 + c.idDigits cfg) (1 + (c.idDigits cfg + rest.length)) rest := by
  have hread := decodeFrameCmd_of_le_idMax rest (idChars_length id _) ((hexNum_idChars_of_le_idMax hw hid).trans_le hid)
  rwa [ofNat_hexNum_idChars hw hid, List.length_append, idChars_length] at hread

theorem lineEndsAt_data (hw : cfg.wf = true) {c : FrameCmd} (hc : c.isRtr = false) {id : CanId} (hid : id.toNat ≤ c.idMax cfg)
    {data : List Byte} (hlen : data.length ≤ cfg.maxDlc) : ∃ line, (mkInstr c id data.length data).LineEndsAt cfg line := by
  obtain ⟨-, hdlc, -⟩ := (wireWf_iff cfg).1 (wf_wireWf cfg hw)
  have hlen15 : data.length ≤ 15 := hlen.trans hdlc
  have hval := hexval_hexchar _ hlen15
  have hhex : ∀ b ∈ idChars id (c.idDigits cfg) ++ hexchar data.length :: payloadChars data, ishex b = true :=
    List.forall_mem_append.2 ⟨idChars_hex _ _, List.forall_mem_cons.2 ⟨ishex_hexchar _ hlen15, payloadChars_hex _⟩⟩
  refine ⟨_, lineEndsAt_of_decodeBody (cmdOfChar_frame cfg c) hhex (encode_data hc hid hlen) fun extra => ?_⟩
  have hpayload (pos m : Nat) := decodeAfterId_of_data id pos m extra hc (hval.trans_le hlen) (by rw [payloadChars_length, hval])
  rw [decodeBody, List.append_assoc, List.cons_append, decodeFrameCmd_idChars hw hid, hpayload, hval, bytePairs_payloadChars]
  simp only [List.length_append, List.length_cons, idChars_length, payloadChars_length]
  congr 1 <;> omega

theorem lineEndsAt_remote (hw : cfg.wf = true) {c : FrameCmd} (hc : c.isRtr = true) {id : CanId} (hid : id.toNat ≤ c.idMax cfg) :
    ∃ line, (mkInstr c id 0 []).LineEndsAt cfg line := by
  refine ⟨_, lineEndsAt_of_decodeBody (cmdOfChar_frame cfg c) (idChars_hex id _) (encode_remote hc hid) fun extra => ?_⟩
  rw [decodeBody, decodeFrameCmd_idChars hw hid, decodeAfterId.eq_def, if_pos hc, idChars_length]
  congr 1 <;> omega

theorem lineEndsAt_value (hw : cfg.wf = true) {c : ValueCmd} {x : Nat} (hx : valueFits (valTable cfg c) x = true) :
    ∃ line, (mkValueInstr c x).LineEndsAt cfg line := by
  obtain ⟨d, hd⟩ := valTab_of_valueFits hx
  obtain ⟨b, hb, hhex, rfl⟩ := valChar_of_valTab hw hd
  refine ⟨_, lineEndsAt_of_decodeBody (body := [b]) (cmdOfChar_charOfCmd hw (.value c)) (by simpa using hhex) (encode_value hb)
    fun extra => ?_⟩
  simp only [decodeBody, List.cons_append, List.nil_append, decodeValueCmd, hd, List.length_cons, List.length_nil]
  congr 1
  omega

theorem lineEndsAt_plain (hw : cfg.wf = true) (c : PlainCmd) : ∃ line, (mkPlainInstr c).LineEndsAt cfg line :=
  ⟨_, lineEndsAt_of_decodeBody (body := []) (cmdOfChar_charOfCmd hw (.plain c)) (by simp) (encode_plain c) fun _ => rfl⟩

/-- Every well-formed command has such a line, kind by kind (R87, R109). -/
theorem exists_lineEndsAt (hw : cfg.wf = true) {i : Instr} (hi : i.wf cfg = true) : ∃ line, i.LineEndsAt cfg line := by
  cases i with
  | stdData id len data =>
    obtain ⟨hid, hlen, rfl⟩ := by simpa [Instr.wf, idFits, payloadFits] using hi
    exact lineEndsAt_data hw (c := .stdData) rfl hid hlen
  | extData id len data =>
    obtain ⟨hid, hlen, rfl⟩ := by simpa [Instr.wf, idFits, payloadFits] using hi
    exact lineEndsAt_data hw (c := .extData) rfl hid hlen
  | stdRemote id => exact lineEndsAt_remote hw (c := .stdRemote) rfl (of_decide_eq_true hi)
  | extRemote id => exact lineEndsAt_remote hw (c := .extRemote) rfl (of_decide_eq_true hi)
  | setBitrate v => exact lineEndsAt_value hw (c := .setBitrate) hi
  | setMode v => exact lineEndsAt_value hw (c := .setMode) hi
  | setAutoRetry v => exact lineEndsAt_value hw (c := .setAutoRetry) hi
  | openChannel => exact lineEndsAt_plain hw .openChannel
  | closeChannel => exact lineEndsAt_plain hw .closeChannel
  | getVersion => exact lineEndsAt_plain hw .getVersion
  | reportError => exact lineEndsAt_plain hw .reportError
  | invalid e => cases hi

/-- Settles O10: a well-formed command's line ends where its path stops reading, and the excess check finds the rest. -/
theorem excessDigitsFollowThePolicy : Obligations.ExcessDigitsFollowThePolicy := by
  intro cfg i line extra hw hi henc hne hextra
  obtain ⟨line', henc', hdec⟩ := exists_lineEndsAt hw hi
  obtain rfl : line' = line := List.append_cancel_right (Option.some.inj (henc'.symm.trans henc))
  have hpos := List.length_pos_iff.2 hne
  have hlt : line'.length < line'.length + extra.length := by omega
  rw [hdec extra hextra]
  rcases hx : excessReading cfg with _ | _ | _ <;> simp only [checkExcess, if_pos hlt, hx]

/-! ## An identifier above its width's maximum -/

/-- Bytes given by their digit pairs are the pairs (R44, R107). -/
theorem bytePairs_eq_of_getD {ds data : List Byte} (hds : ∀ b ∈ ds, ishex b = true) (hlen : ds.length = 2 * data.length)
    (h : ∀ i, i < data.length → (data.getD i 0).toNat = hexval (ds.getD (2 * i) 0) * 16 + hexval (ds.getD (2 * i + 1) 0)) :
    bytePairs ds = data := by
  have hpairs := bytePairs_length ds _ hlen
  refine List.ext_getElem hpairs fun i hi hi' => BitVec.eq_of_toNat_eq ?_
  have hpair := toNat_getD_bytePairs ds hds i (by omega)
  rw [← h i hi'] at hpair
  rwa [List.getD_eq_getElem _ _ hi, List.getD_eq_getElem _ _ hi'] at hpair

/-- A remote command carries the identifier only (R104). -/
theorem mkInstr_remote {c : FrameCmd} (hc : c.isRtr = true) (id : CanId) (len : Nat) (data : List Byte) :
    mkInstr c id len data = mkInstr c id 0 [] := by
  cases c with
  | stdData => cases hc
  | extData => cases hc
  | stdRemote => rfl
  | extRemote => rfl

/-- What stands behind the identifier of a line with nothing in excess gives the command, whatever the identifier (R104, R106, R107). -/
theorem decodeAfterId_exact {c : FrameCmd} (id : CanId) (pos : Nat) {l : Byte} {ds : List Byte} (hl : hexval l ≤ cfg.maxDlc)
    (hds : ds.length = 2 * hexval l) :
    decodeAfterId cfg c id pos (pos + (if c.isRtr then [] else l :: ds).length) (if c.isRtr then [] else l :: ds) =
      .instr (mkInstr c id (hexval l) (bytePairs ds)) := by
  cases hc : c.isRtr with
  | true => simp [decodeAfterId, hc, checkExcess_self, mkInstr_remote hc id (hexval l)]
  | false =>
    have hdata := decodeAfterId_of_data id pos (pos + 1 + 2 * hexval l) [] hc hl hds
    rw [List.append_nil, checkExcess_self] at hdata
    simpa [hds, Nat.add_assoc, Nat.add_comm] using hdata

/-- Settles O11: what stands behind the identifier is read alike under `keep` and `mask`, and not at all under the other readings. -/
theorem identifierRangeFollowsThePolicy : Obligations.IdentifierRangeFollowsThePolicy := by
  intro cfg c ids ds l data hids hhex hmax hl hds hdata hpairs
  obtain ⟨hidsHex, htailHex⟩ := List.forall_mem_append.1 hhex
  obtain ⟨-, hdsHex⟩ := List.forall_mem_cons.1 htailHex
  have hbody : ∀ b ∈ ids ++ (if c.isRtr then [] else l :: ds), ishex b = true := by
    refine List.forall_mem_append.2 ⟨hidsHex, ?_⟩
    split
    · exact fun _ h => nomatch h
    · exact htailHex
  have hbytes : bytePairs ds = data := bytePairs_eq_of_getD hdsHex (by omega) (by rwa [hdata])
  have hlen : ¬ ids.length + (if c.isRtr then [] else l :: ds).length < ids.length := by omega
  rw [decode_line, decodeLine_of_hex cfg _ _ _ (cmdOfChar_frame cfg c) hbody]
  rcases hr : idRangeReading cfg with _ | _ | _ | _ <;>
    simp only [decodeBody, decodeFrameCmd, hr, ← hids, List.length_append, if_neg hlen, List.take_left, List.drop_left, if_pos hmax,
      ← Nat.add_assoc, decodeAfterId_exact _ _ hl hds, hbytes]

end Sys2Proof
end

section
/-! Frames and hardware headers (R108 to R113, R120, R121), and the moves that bring a Frame in: a serial line and a received frame
(R103, R114, R186, R254). -/

namespace Sys2Proof.Machine

variable {cfg : Config}

/-! ## Header conversion and wrap -/

theorem idTypeOf_eq_ite (b : Bool) : idTypeOf b = if b then .extended else .standard := by cases b <;> rfl

theorem frameTypeOf_eq_ite (b : Bool) : frameTypeOf b = if b then .remote else .data := by cases b <;> rfl

/-- Settles O17: the two conversions read the Frame's own flags, and the three other kinds of Frame have no header. -/
theorem headerConversion : Obligations.HeaderConversion := by
  refine ⟨fun f => ?_, fun F hF => ?_⟩
  · simp only [toTxHeader, toRxHeader, idTypeOf_eq_ite, frameTypeOf_eq_ite, and_self]
  · cases F with
    | bus f => exact absurd rfl (hF f)
    | value c v => exact ⟨rfl, rfl⟩
    | plain c => exact ⟨rfl, rfl⟩
    | invalid => exact ⟨rfl, rfl⟩

@[simp] theorem extOf_idTypeOf (b : Bool) : extOf (idTypeOf b) = b := by cases b <;> rfl

@[simp] theorem rtrOf_frameTypeOf (b : Bool) : rtrOf (frameTypeOf b) = b := by cases b <;> rfl

/-- The four-way mapping undoes the flags of a tag (R88, R104). -/
@[simp] theorem tagOfFlags_isExt_isRtr (c : FrameCmd) : tagOfFlags c.isExt c.isRtr = c := by cases c <;> rfl

/-- Wrap of quantities that meet its precondition (R108, R110). -/
theorem wrapFields_of_length {dataLength : Nat} {bytes : List Byte} (id : CanId) (ty : IdType) (ft : FrameType)
    (hbytes : dataLength = bytes.length) (hlen : dataLength ≤ cfg.maxDlc) : wrapFields cfg id ty ft dataLength bytes = some (.bus
      { cmd := tagOfFlags (extOf ty) (rtrOf ft), id := id, ext := extOf ty, rtr := rtrOf ft, len := dataLength, data := bytes }) := by
  simp [wrapFields, ← hbytes, Nat.not_lt.2 hlen]

/-- Wrap of the quantities a Frame's header carries is the Frame. -/
theorem wrapFields_of_wf {f : BusFrame} (hf : f.wf cfg = true) :
    wrapFields cfg f.id (idTypeOf f.ext) (frameTypeOf f.rtr) f.len f.data = some (.bus f) := by
  obtain ⟨hext, hrtr, -, hlen, hdata⟩ := (busFrame_wf_iff cfg f).1 hf
  have htag : tagOfFlags f.ext f.rtr = f.cmd := by rw [hext, hrtr, tagOfFlags_isExt_isRtr]
  simp [wrapFields_of_length _ _ _ hdata.symm hlen, htag]

/-- Settles O18: both header forms carry the quantities that wrap maps back. -/
theorem wrapUndoesHeaderConversion : Obligations.WrapUndoesHeaderConversion := by
  rintro cfg f th rh hf ⟨⟩ ⟨⟩
  exact ⟨wrapFields_of_wf hf, wrapFields_of_wf hf⟩

theorem mkRemote_of_le_idMax {id : CanId} {ext : Bool} (hid : id.toNat ≤ (tagOfFlags ext true).idMax cfg) :
    mkRemote cfg id ext = some (.bus (mkBusFrame (tagOfFlags ext true) id 0 [])) := if_pos hid

theorem mkData_of_le_idMax {id : CanId} {ext : Bool} {bytes : List Byte} {len : Nat} (hid : id.toNat ≤ (tagOfFlags ext false).idMax cfg)
    (hlen : len ≤ cfg.maxDlc) (hbytes : len ≤ bytes.length) :
    mkData cfg id ext bytes len = some (.bus (mkBusFrame (tagOfFlags ext false) id len (bytes.take len))) := if_pos ⟨hid, hlen, hbytes⟩

/-- Settles O19: inside their preconditions the constructors make the Frame of the tag the width selects. -/
theorem constructorsBuildTheCommandFrames : Obligations.ConstructorsBuildTheCommandFrames :=
  fun _ _ _ _ hlen hbytes =>
    ⟨fun hid => ⟨mkRemote_of_le_idMax hid, mkData_of_le_idMax hid hlen hbytes⟩,
     fun hid => ⟨mkRemote_of_le_idMax hid, mkData_of_le_idMax hid hlen hbytes⟩⟩

/-! ## A serial line -/

variable {s : State}

/-- The cause is logged before the delivery, which rejects Invalid whatever InQ holds (R114, R184). -/
theorem exec_invalid_running (e : DecodeError) (hr : s.running) : exec (.invalid e) s = .next (s.logged (.decodeError e)) := by
  calc exec (.invalid e) s
    _ = guarded s fun s => .next (deliver .invalid .serial (s.logged (.decodeError e))) := rfl
    _ = .next (deliver .invalid .serial (s.logged (.decodeError e))) := guarded_running s _ hr
    _ = .next (s.logged (.decodeError e)) := by rw [deliver_invalid]

/-- Settles O22: what stays of the callback on Invalid is the log entry. -/
theorem invalidIsLoggedAndRejected : Obligations.InvalidIsLoggedAndRejected := fun _ e hr => exec_invalid_running e hr

section
variable {buf : List Byte} {rest : List Event} (hr : s.running) (hcb : s.serialCallback = true)
include hr hcb

theorem fetchLine_instr {i : Instr} (hlen : buf.length ≤ s.cfg.maxLine) (hdec : decode s.cfg buf = .instr i) :
    fetchLine buf s = .instr i s := by
  simp [fetchLine, hr.1, hr.2, hcb, Nat.not_lt.2 hlen, hdec]

theorem fetchLine_refuse {r : DecodeRefusal} (hlen : buf.length ≤ s.cfg.maxLine) (hdec : decode s.cfg buf = .refuse r) :
    fetchLine buf s = .refuse (.decode r) := by
  simp [fetchLine, hr.1, hr.2, hcb, Nat.not_lt.2 hlen, hdec]

theorem fetchLine_tooLong (hlen : s.cfg.maxLine < buf.length) : fetchLine buf s = .refuse .lineTooLong := by
  simp [fetchLine, hr.1, hr.2, hcb, hlen]

end

/-- Settles O25: the step does what is fetched of the line: the command, or the refusal by its name. -/
theorem stepRunsTheDecodedInstruction : Obligations.StepRunsTheDecodedInstruction := by
  intro s buf rest hr hcb hs
  have hr' : (s.withSchedule rest).running := hr
  rw [step, fetch_serLine hs]
  refine ⟨fun i hlen hdec => ?_, fun r hlen hdec => ?_, fun hlen => ?_⟩
  · rw [fetchLine_instr hr' hcb hlen hdec]
    rfl
  · rw [fetchLine_refuse hr' hcb hlen hdec]
  · rw [fetchLine_tooLong hr' hcb hlen]

/-! ## A received frame -/

/-- A header whose length is not the buffer's, or above `MAX_DLC`, takes the fatal path (R110). -/
theorem rxIsr_broken {h : RxHeader} {bytes : List Byte} (hbroken : h.dataLength ≠ bytes.length ∨ s.cfg.maxDlc < h.dataLength)
    (fifo : RxFifo) : rxIsr fifo h bytes s = s.withHalted true := by
  have hw : wrapRx s.cfg h bytes = none := if_pos hbroken
  rcases rxIsr_cases fifo h bytes s with ⟨-, hrx⟩ | ⟨F, hF, -⟩
  · exact hrx
  · rw [hw] at hF
    cases hF

/-- The Frame of a received header and payload, by the four-way mapping (R108). -/
def RxHeader.frame (h : RxHeader) (bytes : List Byte) : Frame :=
  .bus { cmd := tagOfFlags (extOf h.idType) (rtrOf h.rxFrameType), id := h.identifier, ext := extOf h.idType, rtr := rtrOf h.rxFrameType,
         len := h.dataLength, data := bytes }

theorem RxHeader.frame_ne_invalid (h : RxHeader) (bytes : List Byte) : h.frame bytes ≠ .invalid := nofun

theorem rxIsr_of_length {h : RxHeader} {bytes : List Byte} (hbytes : h.dataLength = bytes.length) (hlen : h.dataLength ≤ s.cfg.maxDlc)
    (fifo : RxFifo) : rxIsr fifo h bytes s = deliver (h.frame bytes) .bus s := by
  have hw : wrapRx s.cfg h bytes = some (h.frame bytes) := wrapFields_of_length _ _ _ hbytes hlen
  rcases rxIsr_cases fifo h bytes s with ⟨hnone, -⟩ | ⟨F, hF, hrx⟩
  · rw [hw] at hnone
    cases hnone
  · rw [hw] at hF
    cases hF
    exact hrx

theorem step_rxFrame {fifo : RxFifo} {h : RxHeader} {bytes : List Byte} {rest : List Event} (hr : s.running)
    (hs : s.schedule = .rxFrame fifo h bytes :: rest) : step s = .next (rxIsr fifo h bytes (s.withSchedule rest)) := by
  rw [step_move hs fun _ h => nomatch h]
  exact guarded_running (s.withSchedule rest) (fun s => .next (rxIsr fifo h bytes s)) hr

/-- Settles O28: the handler is the delivery of the wrapped Frame, or the fatal path, and neither looks at which FIFO it was. -/
theorem rxIsrStep : Obligations.RxIsrStep := by
  intro s fifo h bytes rest hr hs
  rw [step_rxFrame hr hs]
  refine ⟨fun hbroken => ?_, fun hbytes hlen hfull => ?_, fun hbytes hlen hroom => ?_⟩
  · rw [rxIsr_broken (s := s.withSchedule rest) hbroken]
    rfl
  · rw [rxIsr_of_length (s := s.withSchedule rest) hbytes hlen, deliver_full _ _ (s.withSchedule rest) (h.frame_ne_invalid bytes) (Nat.not_lt.2 hfull.ge)]
    rfl
  · rw [rxIsr_of_length (s := s.withSchedule rest) hbytes hlen, deliver_room _ _ (s.withSchedule rest) (h.frame_ne_invalid bytes) hroom]
    obtain ⟨id, ty, ft, dataLength, fd, brs, esi⟩ := h
    cases ty <;> cases ft <;> rfl

end Sys2Proof.Machine
end

section
/-! The commands that reach InQ (R140 to R143, R161 to R168, R184, R186): exec of a valid command puts its Frame at the tail of InQ. -/

namespace Sys2Proof.Machine

/-- With room in InQ the rest of the serial callback is an append, which writes no other field (R184, R186). -/
theorem exec_command_room {s : State} {i : Instr} (hi : ∀ e, i ≠ .invalid e) (hr : s.running) (hroom : s.inQ.length < s.cfg.inQCap) :
    exec i s = .next (s.withInQ (s.inQ ++ [{ frame := i.frame, origin := .serial }])) := by
  calc exec i s
    _ = serialDeliver i.frame s := exec_command i s hi
    _ = .next (deliver i.frame .serial s) := guarded_running s _ hr
    _ = _ := by rw [deliver_room i.frame .serial s (frame_ne_invalid i hi) hroom]

/-- Settles O20: each frame command's Frame is its tag's, whose flags are those the rule writes, and it goes to the tail of InQ. -/
theorem frameCommandsAreDelivered : Obligations.FrameCommandsAreDelivered :=
  fun _ _ _ _ hr hroom =>
    ⟨exec_command_room nofun hr hroom, exec_command_room nofun hr hroom, exec_command_room nofun hr hroom, exec_command_room nofun hr hroom⟩

end Sys2Proof.Machine
end

section
/-! The control commands (R161 to R168): each goes to the tail of InQ and does nothing else there, and whichever worker dequeues one, found to
be no transmittable kind, discards it (R201 to R204, R225). -/

namespace Sys2Proof.Machine

/-- Settles O21: a control command is a valid command, and `Instr.frame` is its tag with its value. -/
theorem controlCommandsAreDelivered : Obligations.ControlCommandsAreDelivered :=
  fun _ _ hr hroom =>
    ⟨exec_command_room nofun hr hroom, exec_command_room nofun hr hroom, exec_command_room nofun hr hroom, exec_command_room nofun hr hroom,
     exec_command_room nofun hr hroom, exec_command_room nofun hr hroom, exec_command_room nofun hr hroom⟩

variable {s t u : State}

/-! ## Writes of the value a field has -/

theorem State.withOutQ_self {q : List Frame} (h : s.outQ = q) : s.withOutQ q = s := by subst h; rfl

theorem State.withInQ_self {q : List Tagged} (h : s.inQ = q) : s.withInQ q = s := by subst h; rfl

theorem State.withTxw_self {p : TxwPhase} (h : s.txw = p) : s.withTxw p = s := by subst h; rfl

theorem State.withRxw_self {p : RxwPhase} (h : s.rxw = p) : s.withRxw p = s := by subst h; rfl

/-! ## Runs, from their first step -/

theorem runSteps_next {k : Nat} (h : step s = .next t) (hrun : runSteps k t = .next u) : runSteps (k + 1) s = .next u := by
  have hcore : core.step s = .next t := h
  simp only [runSteps, Host.Core.run, hcore]
  exact hrun

/-! ## What the workers do to an entry that is no frame command -/

/-- The transmittable kinds are those with a hardware header (R120, R200). -/
theorem transmittable_eq_false_of_toTxHeader {F : Frame} (h : toTxHeader F = none) : transmittable F = false := by
  cases F with
  | bus f => cases h
  | value c v => rfl
  | plain c => rfl
  | invalid => rfl

theorem txwStep_dequeues {F : Frame} {l : List Frame} (a : Answers) (hp : s.txw = .idle) (hq : s.outQ = F :: l) :
    txwStep a s = .next ((s.withOutQ l).withTxw (.got F)) := by simp [txwStep, txwIdle, hp, hq]

theorem txwStep_discards {F : Frame} (a : Answers) (hp : s.txw = .got F) (hF : transmittable F = false) :
    txwStep a s = .next (s.withTxw .idle) := by simp [txwStep, txwGot, hp, hF]

theorem rxwStep_dequeues {x : Tagged} {l : List Tagged} (a : Answers) (hp : s.rxw = .idle) (hq : s.inQ = x :: l) :
    rxwStep a s = .next ((s.withInQ l).withRxw (.got x)) := by simp [rxwStep, rxwIdle, hp, hq]

theorem rxwStep_discards {x : Tagged} (a : Answers) (hp : s.rxw = .got x) (hx : transmittable x.frame = false) :
    rxwStep a s = .next (s.withRxw .idle) := by simp [rxwStep, rxwGot, hp, hx]

theorem submitFromIsr_room {F : Frame} (hF : F ≠ .invalid) (hroom : s.outQ.length < s.cfg.outQCap) :
    submitFromIsr F s = (s.withOutQ (s.outQ ++ [F])).withRet .accepted := by simp [submitFromIsr, hF, hroom]

/-! ## The moves, on a running block -/

section
variable {rest : List Event} (hr : s.running)
include hr

theorem step_txwStep {a : Answers} (hs : s.schedule = .txwStep a :: rest) : step s = txwStep a (s.withSchedule rest) := by
  rw [step_move hs nofun]
  exact guarded_running (s.withSchedule rest) (txwStep a) hr

theorem step_rxwStep {a : Answers} (hs : s.schedule = .rxwStep a :: rest) : step s = rxwStep a (s.withSchedule rest) := by
  rw [step_move hs nofun]
  exact guarded_running (s.withSchedule rest) (rxwStep a) hr

theorem step_submitIsr {F : Frame} (hs : s.schedule = .submitIsr F :: rest) :
    step s = .next (submitFromIsr F (s.withSchedule rest)) := by
  rw [step_move hs nofun]
  exact guarded_running (s.withSchedule rest) (fun s => .next (submitFromIsr F s)) hr

theorem step_txw_dequeues {F : Frame} {l : List Frame} {a : Answers} (hp : s.txw = .idle) (hq : s.outQ = F :: l)
    (hs : s.schedule = .txwStep a :: rest) : step s = .next (((s.withSchedule rest).withOutQ l).withTxw (.got F)) :=
  (step_txwStep hr hs).trans (txwStep_dequeues a hp hq)

theorem step_txw_discards {F : Frame} {a : Answers} (hp : s.txw = .got F) (hF : transmittable F = false)
    (hs : s.schedule = .txwStep a :: rest) : step s = .next ((s.withSchedule rest).withTxw .idle) :=
  (step_txwStep hr hs).trans (txwStep_discards a hp hF)

theorem step_rxw_dequeues {x : Tagged} {l : List Tagged} {a : Answers} (hp : s.rxw = .idle) (hq : s.inQ = x :: l)
    (hs : s.schedule = .rxwStep a :: rest) : step s = .next (((s.withSchedule rest).withInQ l).withRxw (.got x)) :=
  (step_rxwStep hr hs).trans (rxwStep_dequeues a hp hq)

theorem step_rxw_discards {x : Tagged} {a : Answers} (hp : s.rxw = .got x) (hx : transmittable x.frame = false)
    (hs : s.schedule = .rxwStep a :: rest) : step s = .next ((s.withSchedule rest).withRxw .idle) :=
  (step_rxwStep hr hs).trans (rxwStep_discards a hp hx)

/-- The transmit worker is idle again after the step that dequeues the head of OutQ and the step that discards it (R201, R202). -/
theorem runSteps_txw_discards {F : Frame} {l : List Frame} {a1 a2 : Answers} (hp : s.txw = .idle) (hF : transmittable F = false) :
    runSteps 2 ((s.withSchedule (.txwStep a1 :: .txwStep a2 :: rest)).withOutQ (F :: l)) = .next ((s.withSchedule rest).withOutQ l) := by
  have dequeued := step_txw_dequeues (s := (s.withSchedule (.txwStep a1 :: .txwStep a2 :: rest)).withOutQ (F :: l)) hr hp rfl rfl
  refine (runSteps_next dequeued (runSteps_next (step_txw_discards hr rfl hF rfl) rfl)).trans ?_
  exact congrArg _ (State.withTxw_self (s := (s.withSchedule rest).withOutQ l) hp)

/-- The receive worker is idle again after the step that dequeues the head of InQ and the step that discards it (R203, R204). -/
theorem runSteps_rxw_discards {x : Tagged} {l : List Tagged} {a1 a2 : Answers} (hp : s.rxw = .idle) (hx : transmittable x.frame = false) :
    runSteps 2 ((s.withSchedule (.rxwStep a1 :: .rxwStep a2 :: rest)).withInQ (x :: l)) = .next ((s.withSchedule rest).withInQ l) := by
  have dequeued := step_rxw_dequeues (s := (s.withSchedule (.rxwStep a1 :: .rxwStep a2 :: rest)).withInQ (x :: l)) hr hp rfl rfl
  refine (runSteps_next dequeued (runSteps_next (step_rxw_discards hr rfl hx rfl) rfl)).trans ?_
  exact congrArg _ (State.withRxw_self (s := (s.withSchedule rest).withInQ l) hp)

/-- A serial line of a valid command is a delivery; in an empty InQ its Frame is alone (R186). -/
theorem step_serLine_of_inQ_nil {buf : List Byte} {i : Instr} (hcb : s.serialCallback = true) (hi : ∀ e, i ≠ .invalid e) (hq : s.inQ = [])
    (hcap : 0 < s.cfg.inQCap) (hlen : buf.length ≤ s.cfg.maxLine) (hdec : decode s.cfg buf = .instr i)
    (hs : s.schedule = .serLine buf :: rest) :
    step s = .next ((s.withSchedule rest).withInQ [{ frame := i.frame, origin := .serial }]) := by
  have hroom : (s.withSchedule rest).inQ.length < (s.withSchedule rest).cfg.inQCap := by simpa [hq] using hcap
  calc step s
    _ = exec i (s.withSchedule rest) := (stepRunsTheDecodedInstruction s buf rest hr hcb hs).1 i hlen hdec
    _ = .next ((s.withSchedule rest).withInQ ((s.withSchedule rest).inQ ++ [{ frame := i.frame, origin := .serial }])) :=
      exec_command_room (s := s.withSchedule rest) hi hr hroom
    _ = _ := by simp [hq]

/-- A valid Frame submitted from interrupt context is accepted; in an empty OutQ it is alone (R182). -/
theorem step_submitIsr_of_outQ_nil {F : Frame} (hF : F ≠ .invalid) (hq : s.outQ = []) (hcap : 0 < s.cfg.outQCap)
    (hs : s.schedule = .submitIsr F :: rest) : step s = .next (((s.withRet .accepted).withSchedule rest).withOutQ [F]) := by
  have hroom : (s.withSchedule rest).outQ.length < (s.withSchedule rest).cfg.outQCap := by simpa [hq] using hcap
  rw [step_submitIsr hr hs, submitFromIsr_room hF hroom, State.withSchedule_outQ, hq]
  rfl

end

/-- Settles O40: one step puts the command into an empty queue, the worker's two steps take it out and leave the queue empty again. -/
theorem controlCommandsPassWithoutEffect : Obligations.ControlCommandsPassWithoutEffect := by
  intro s buf i a1 a2 rest hr hcb hi hheader
  have hdiscard : transmittable i.frame = false := transmittable_eq_false_of_toTxHeader hheader
  refine ⟨fun hidle hempty hcap hlen hdec hs => ?_, fun hidle hempty hcap hs => ?_⟩
  · calc runSteps 3 s
      _ = .next ((s.withSchedule rest).withInQ []) :=
        runSteps_next (step_serLine_of_inQ_nil hr hcb hi hempty hcap hlen hdec hs) (runSteps_rxw_discards hr hidle hdiscard)
      _ = .next (s.withSchedule rest) := congrArg _ (State.withInQ_self (s := s.withSchedule rest) hempty)
  · calc runSteps 3 s
      _ = .next (((s.withRet .accepted).withSchedule rest).withOutQ []) :=
        runSteps_next (step_submitIsr_of_outQ_nil hr (frame_ne_invalid i hi) hempty hcap hs)
          (runSteps_txw_discards (s := s.withRet .accepted) hr hidle hdiscard)
      _ = .next ((s.withRet .accepted).withSchedule rest) :=
        congrArg _ (State.withOutQ_self (s := (s.withRet .accepted).withSchedule rest) hempty)

end Sys2Proof.Machine
end

section
/-! The entry points of the queues on a running block (R180, R182, R184): each rejects Invalid, appends at the tail while there is room, and on
a full queue halts in interrupt context (R244) or waits in task context. -/

namespace Sys2Proof.Machine

variable {s : State} {F : Frame}

/-! ## A full InQ -/

theorem exec_command_full {i : Instr} (hi : ∀ e, i ≠ .invalid e) (hr : s.running) (hfull : ¬ s.inQ.length < s.cfg.inQCap) :
    exec i s = .next (s.withHalted true) := by
  calc exec i s
    _ = serialDeliver i.frame s := exec_command i s hi
    _ = .next (deliver i.frame .serial s) := guarded_running s _ hr
    _ = _ := by rw [deliver_full i.frame .serial s (frame_ne_invalid i hi) hfull]

/-- Settles O23: the rest of the serial callback on a full InQ is the fatal path, which writes `Halted` and no queue. -/
theorem fullInQueueHalts : Obligations.FullInQueueHalts :=
  fun _ _ hr hi hfull => exec_command_full hi hr hfull.not_lt

/-! ## OutQ -/

theorem submitFromIsr_invalid : submitFromIsr .invalid s = s.withRet .rejected := by simp [submitFromIsr]

theorem submitFromIsr_full (hF : F ≠ .invalid) (hfull : ¬ s.outQ.length < s.cfg.outQCap) : submitFromIsr F s = s.withHalted true := by
  simp [submitFromIsr, hF, hfull, raiseFatal_eq]

theorem submitCall_invalid : submitCall .invalid s = s.withRet .rejected := by simp [submitCall]

theorem submitCall_valid (hF : F ≠ .invalid) : submitCall F s = s.withSubmitting (s.submitting ++ [F]) := by simp [submitCall, hF]

theorem submitEnqueue_room {k : Nat} (hk : s.submitting[k]? = some F) (hroom : s.outQ.length < s.cfg.outQCap) :
    submitEnqueue k s = ((s.withOutQ (s.outQ ++ [F])).withSubmitting (s.submitting.eraseIdx k)).withRet .accepted := by
  simp [submitEnqueue, hk, hroom]

/-- A producer blocked at S2 has no step (R180). -/
theorem submitEnqueue_full {k : Nat} (hfull : ¬ s.outQ.length < s.cfg.outQCap) : submitEnqueue k s = s := by
  rcases submitEnqueue_cases k s with ⟨F, -, hroom, -⟩ | ⟨-, h⟩
  · exact absurd hroom hfull
  · exact h

section
variable {rest : List Event} (hr : s.running)
include hr

theorem step_submitCall (hs : s.schedule = .submitCall F :: rest) : step s = .next (submitCall F (s.withSchedule rest)) := by
  rw [step_move hs nofun]
  exact guarded_running (s.withSchedule rest) (fun s => .next (submitCall F s)) hr

theorem step_submitEnqueue {k : Nat} (hs : s.schedule = .submitEnqueue k :: rest) :
    step s = .next (submitEnqueue k (s.withSchedule rest)) := by
  rw [step_move hs nofun]
  exact guarded_running (s.withSchedule rest) (fun s => .next (submitEnqueue k s)) hr

end

/-- Settles O26: the move is the call, whose three answers are its equations for Invalid, for room and for a full OutQ. -/
theorem submitFromIsrStep : Obligations.SubmitFromIsrStep := by
  intro s F rest hr hs
  rw [step_submitIsr hr hs]
  refine ⟨fun hF => ?_, fun hF hroom => ?_, fun hF hfull => ?_⟩
  · rw [hF, submitFromIsr_invalid]
    rfl
  · rw [submitFromIsr_room (s := s.withSchedule rest) hF hroom]
    rfl
  · rw [submitFromIsr_full (s := s.withSchedule rest) hF hfull.not_lt]
    rfl

/-- Settles O27: S1 looks at the Frame only, and S2 at the room in OutQ only. -/
theorem submitSteps : Obligations.SubmitSteps := by
  intro s F k rest hr
  refine ⟨fun hs => ?_, fun hs hk => ?_⟩
  · rw [step_submitCall hr hs]
    refine ⟨fun hF => ?_, fun hF => ?_⟩
    · rw [hF, submitCall_invalid]
      rfl
    · rw [submitCall_valid hF]
      rfl
  · rw [step_submitEnqueue hr hs]
    refine ⟨fun hroom => ?_, fun hfull => ?_⟩
    · rw [submitEnqueue_room (s := s.withSchedule rest) hk hroom]
      rfl
    · rw [submitEnqueue_full (s := s.withSchedule rest) hfull.not_lt]
      rfl

end Sys2Proof.Machine
end

section
/-! What sets `Halted` (R244, R250, R251): the fatal path of an enqueue in interrupt context or of a broken header. Every other operation keeps
the field, or clears it where it builds the block anew. -/

namespace Sys2Proof.Machine

/-! ## The operations that keep `Halted` -/

section
variable (w : Worker) (F : Frame) (s : State)

@[simp] theorem setBus_halted (p : BusPhase) : (setBus w F p s).halted = s.halted := by cases w <;> rfl
@[simp] theorem exitBus_halted : (exitBus w F s).halted = s.halted := by cases w <;> rfl
@[simp] theorem setUsb_halted (p : UsbPhase) : (setUsb w F p s).halted = s.halted := by cases w <;> rfl
@[simp] theorem exitUsb_halted : (exitUsb w F s).halted = s.halted := by cases w <;> rfl
@[simp] theorem hwSubmit_halted (h : TxHeader) (bytes : List Byte) : (hwSubmit h bytes s).halted = s.halted := rfl
@[simp] theorem usbQueue_halted (bytes : List Byte) : (usbQueue bytes s).halted = s.halted := rfl

@[simp] theorem submitCall_halted : (submitCall F s).halted = s.halted := by
  rcases submitCall_cases F s with ⟨-, h⟩ | ⟨-, h⟩ <;> simp [h]

@[simp] theorem submitEnqueue_halted (k : Nat) : (submitEnqueue k s).halted = s.halted := by
  rcases submitEnqueue_cases k s with ⟨F, -, -, h⟩ | ⟨-, h⟩ <;> simp [h]

@[simp] theorem txcIsr_halted : (txcIsr s).halted = s.halted := by
  rcases wakeOne_cases ((s.withDrop 0).withErr 0) with ⟨-, h⟩ | ⟨-, -, h⟩ | ⟨-, -, h⟩ <;> simp [txcIsr, h]

@[simp] theorem usbAttempt_halted (bytes : List Byte) (left : Nat) (a : Answers) : (usbAttempt w F bytes left a s).halted = s.halted := by
  rcases usbAttempt_cases w F bytes left a s with ⟨-, h⟩ | ⟨r, -, -, h⟩ | ⟨-, -, -, h⟩ | ⟨-, -, -, h⟩ <;> simp [h]

end

variable {s t : State} {a : Answers}

theorem errIsr_keeps_halted {sel : Option Nat} {post : BerrReading} (h : errIsr sel post s = .next t) : t.halted = s.halted := by
  rcases errIsr_next h with ⟨-, rfl⟩ | ⟨-, -, rfl⟩
  · rfl
  · simp [errTrip_eq]

theorem completeTx_keeps_halted (h : completeTx s = .next t) : t.halted = s.halted := by
  obtain ⟨slot, l, -, ⟨-, rfl⟩ | ⟨-, rfl⟩⟩ := completeTx_next h
  · simp
  · rfl

theorem busStep_keeps_halted {w : Worker} {F : Frame} {p : BusPhase} (h : busStep w F p a s = .next t) : t.halted = s.halted := by
  rcases busStep_next h with ⟨-, -, rfl⟩ | ⟨-, -, rfl⟩ | ⟨d, -, rfl⟩ | ⟨-, -, rfl⟩ | ⟨hd, -, -, rfl⟩ | ⟨hd, -, -, rfl⟩ |
    ⟨hd, -, -, rfl⟩ | ⟨hd, -, rfl⟩ | ⟨hd, -, -, rfl⟩ | ⟨hd, -, -, rfl⟩ | ⟨-, -, rfl⟩ | ⟨-, -, rfl⟩ | ⟨d, -, rfl⟩ |
    ⟨hd, -, -, rfl⟩ | ⟨hd, -, -, -, -, rfl⟩
  all_goals simp

theorem usbStep_keeps_halted {w : Worker} {F : Frame} {p : UsbPhase} (h : usbStep w F p a s = .next t) : t.halted = s.halted := by
  rcases usbStep_next h with ⟨-, -, rfl⟩ | ⟨bytes, -, -, -, rfl⟩ | ⟨bytes, -, rfl⟩ | ⟨bytes, left, -, rfl⟩ | ⟨bytes, left, -, rfl⟩
  all_goals simp

theorem txwStep_keeps_halted (h : txwStep a s = .next t) : t.halted = s.halted := by
  rcases txwStep_next h with ⟨-, -, rfl⟩ | ⟨F, rest, -, -, rfl⟩ | ⟨F, -, -, rfl⟩ | ⟨F, -, -, rfl⟩ | ⟨F, p, -, h⟩ | ⟨F, p, -, h⟩
  · rfl
  · rfl
  · rfl
  · rfl
  · exact busStep_keeps_halted h
  · exact usbStep_keeps_halted h

theorem rxwStep_keeps_halted (h : rxwStep a s = .next t) : t.halted = s.halted := by
  rcases rxwStep_next h with ⟨-, -, rfl⟩ | ⟨x, rest, -, -, rfl⟩ | ⟨x, -, -, -, rfl⟩ | ⟨x, -, -, -, rfl⟩ | ⟨x, -, -, rfl⟩ |
    ⟨F, p, -, h⟩ | ⟨F, p, -, h⟩ | ⟨F, -, rfl⟩
  · rfl
  · rfl
  · rfl
  · rfl
  · rfl
  · exact busStep_keeps_halted h
  · exact usbStep_keeps_halted h
  · rfl

/-! ## The operations that can set `Halted` -/

section
variable (hs : s.halted = false)
include hs

theorem construct_not_halted : (construct s).halted = false := by
  rcases construct_cases s with ⟨-, h⟩ | ⟨-, -, h⟩ | ⟨-, -, h⟩ <;> simp [h, hs]

theorem deliver_halts {F : Frame} {o : Origin} (ht : (deliver F o s).halted = true) : s.cfg.inQCap ≤ s.inQ.length := by
  rcases deliver_cases F o s with ⟨-, h⟩ | ⟨-, -, h⟩ | ⟨-, hfull, -⟩
  · simp [h, hs] at ht
  · simp [h, hs] at ht
  · exact Nat.not_lt.1 hfull

theorem submitFromIsr_halts {F : Frame} (ht : (submitFromIsr F s).halted = true) : s.cfg.outQCap ≤ s.outQ.length := by
  rcases submitFromIsr_cases F s with ⟨-, h⟩ | ⟨-, -, h⟩ | ⟨-, hfull, -⟩
  · simp [h, hs] at ht
  · simp [h, hs] at ht
  · exact Nat.not_lt.1 hfull

theorem rxIsr_halts {fifo : RxFifo} {hd : RxHeader} {bytes : List Byte} (ht : (rxIsr fifo hd bytes s).halted = true) :
    s.cfg.inQCap ≤ s.inQ.length ∨ hd.dataLength ≠ bytes.length ∨ s.cfg.maxDlc < hd.dataLength := by
  by_cases hbroken : hd.dataLength ≠ bytes.length ∨ s.cfg.maxDlc < hd.dataLength
  · exact .inr hbroken
  · push Not at hbroken
    obtain ⟨hbytes, hlen⟩ := hbroken
    rw [rxIsr_of_length hbytes hlen] at ht
    exact .inl (deliver_halts hs ht)

theorem exec_halts {i : Instr} (h : exec i s = .next t) (ht : t.halted = true) : s.cfg.inQCap ≤ s.inQ.length := by
  rcases exec_next h with ⟨e, -, -, rfl⟩ | ⟨-, -, rfl⟩ | ⟨hh, -⟩
  · simp [hs] at ht
  · exact deliver_halts hs ht
  · simp [hs] at hh

/-- Of the moves other than a serial line, only a received frame and `submitFromISR` can halt the block. -/
theorem runEvent_halts {e : Event} (h : runEvent e s = .next t) (ht : t.halted = true) :
    (∃ fifo hd bytes, e = .rxFrame fifo hd bytes ∧
      (s.cfg.inQCap ≤ s.inQ.length ∨ hd.dataLength ≠ bytes.length ∨ s.cfg.maxDlc < hd.dataLength)) ∨
    ∃ F, e = .submitIsr F ∧ s.cfg.outQCap ≤ s.outQ.length := by
  have kept {P : Prop} (h : s.halted = true) : P := by simp [hs] at h
  rcases runEvent_next h with ⟨buf, -, rfl⟩ | ⟨fifo, hd, bytes, he, -, rfl⟩ | ⟨-, h⟩ | ⟨v, sel, post, -, -, h⟩ | ⟨b, -, rfl⟩ |
    ⟨-, rfl⟩ | ⟨a, -, -, h⟩ | ⟨a, -, -, h⟩ | ⟨F, -, -, rfl⟩ | ⟨k, -, -, rfl⟩ | ⟨F, he, -, rfl⟩ | ⟨-, rfl⟩ | ⟨-, rfl⟩ | ⟨-, rfl⟩
  · exact kept ht
  · exact .inl ⟨fifo, hd, bytes, he, rxIsr_halts hs ht⟩
  · exact kept (completeTx_keeps_halted h ▸ ht)
  · exact kept (errIsr_keeps_halted h ▸ ht)
  · exact kept ht
  · exact kept ht
  · exact kept (txwStep_keeps_halted h ▸ ht)
  · exact kept (rxwStep_keeps_halted h ▸ ht)
  · exact kept (submitCall_halted F s ▸ ht)
  · exact kept (submitEnqueue_halted s k ▸ ht)
  · exact .inr ⟨F, he, submitFromIsr_halts hs ht⟩
  · exact absurd ht (by simp [construct_not_halted hs])
  · exact kept ht
  · exact kept ht

end

/-- Settles O54: a serial line halts by its delivery only, and of the other moves the two of interrupt context that meet their own fatal
paths. -/
theorem onlyFatalCausesHalt : Obligations.OnlyFatalCausesHalt := by
  intro s t hs hstep ht
  have kept {P : Prop} (h : s.halted = true) : P := by simp [hs] at h
  rcases step_next hstep with ⟨-, rfl⟩ | ⟨buf, rest, i, hm, -, -, -, -, h⟩ | ⟨buf, rest, -, hh, -⟩ | ⟨e, rest, hm, -, h⟩
  · exact kept ht
  · exact .inl ⟨buf, rest, hm, exec_halts (s := s.withSchedule rest) hs h ht⟩
  · exact kept hh
  · obtain ⟨fifo, hd, bytes, rfl, hfatal⟩ | ⟨F, rfl, hfull⟩ := runEvent_halts (s := s.withSchedule rest) hs h ht
    · exact .inr (.inl ⟨fifo, hd, bytes, rest, hm, hfatal⟩)
    · exact .inr (.inr ⟨F, rest, hm, hfull⟩)

end Sys2Proof.Machine
end

section
/-! The paths of a frame command (R225): through the flow-control machine with the breaker closed and a free slot, which is the same for both
workers (R207 to R216), and for a submitted one on through USB forwarding (R220, R221). -/

namespace Sys2Proof.Machine

variable {s t u : State} {w : Worker} {F : Frame} {h : TxHeader}

/-! ## Runs, joined -/

theorem runSteps_succ {k : Nat} (hstep : step s = .next t) : runSteps (k + 1) s = runSteps k t := by
  have hcore : core.step s = .next t := hstep
  simp only [runSteps, Host.Core.run, hcore]
  rfl

/-- A run that answers a next state has a first step that does. -/
theorem exists_step_of_runSteps {k : Nat} (hrun : runSteps (k + 1) s = .next t) : ∃ s', step s = .next s' := by
  cases hstep : step s with
  | next s' => exact ⟨s', rfl⟩
  | fault r => cases r
  | refused r =>
    have hcore : core.step s = .refused r := hstep
    simp [runSteps, Host.Core.run, hcore] at hrun

theorem runSteps_add {k m : Nat} (hrun : runSteps k s = .next t) (hmore : runSteps m t = .next u) : runSteps (m + k) s = .next u := by
  induction k generalizing s with
  | zero =>
    cases hrun
    exact hmore
  | succ k ih =>
    obtain ⟨s', hstep⟩ := exists_step_of_runSteps hrun
    exact runSteps_next hstep (ih (runSteps_succ hstep ▸ hrun))

/-! ## The Frames that have a hardware header -/

theorem transmittable_of_toTxHeader (hh : toTxHeader F = some h) : transmittable F = true := by
  cases F with
  | bus f => rfl
  | value c v => cases hh
  | plain c => cases hh
  | invalid => cases hh

theorem ne_invalid_of_toTxHeader {i : Instr} (hh : toTxHeader i.frame = some h) (e : DecodeError) : i ≠ .invalid e := by
  rintro rfl
  cases hh

/-! ## Routing -/

/-- The receive worker routes a Frame from the serial side to the bus (R204). -/
theorem rxwGot_serial {x : Tagged} (hx : transmittable x.frame = true) (ho : x.origin = .serial) :
    rxwGot x s = s.withRxw (.bus x.frame .bs1) := by simp [rxwGot, hx, ho]

/-- The transmit worker routes every frame command to the bus first (R202). -/
theorem txwGot_transmittable (hF : transmittable F = true) : txwGot F s = s.withTxw (.bus F .bs1) := if_pos hF

/-! ## Phase writes of the flow-control machine that the next one absorbs -/

@[simp] theorem setBus_setBus (p q : BusPhase) : setBus w F q (setBus w F p s) = setBus w F q s := by cases w <;> rfl
@[simp] theorem exitBus_hwSubmit_setBus (p : BusPhase) (bytes : List Byte) :
    exitBus w F (hwSubmit h bytes (setBus w F p s)) = exitBus w F (hwSubmit h bytes s) := by cases w <;> rfl
@[simp] theorem hwFree_setBus (p : BusPhase) : hwFree (setBus w F p s) = hwFree s := by cases w <;> rfl
@[simp] theorem breakerOpen_setBus (p : BusPhase) : breakerOpen (setBus w F p s) = breakerOpen s := by cases w <;> rfl

/-! ## The steps of a transmission that meets no obstacle -/

section
variable {a : Answers} {rest : List Event} (hr : s.running)
include hr

theorem step_bs1_closed (hclosed : s.dropCount ≤ s.cfg.dropThreshold) :
    step (setBus w F .bs1 (s.withSchedule (workerStep w a :: rest))) = .next (setBus w F .bs2 (s.withSchedule rest)) := by
  have hb : breakerOpen (s.withSchedule rest) = false := decide_eq_false (Nat.not_lt.2 hclosed)
  rw [step_setBus s w F _ a rest hr]
  simp [busStep, stepBs1, hb]

theorem step_bs2_header (hh : toTxHeader F = some h) :
    step (setBus w F .bs2 (s.withSchedule (workerStep w a :: rest))) = .next (setBus w F (.bs3 h) (s.withSchedule rest)) := by
  rw [step_setBus s w F _ a rest hr]
  simp [busStep, stepBs2, hh]

theorem step_bs3_room (hroom : s.env.txFifo.length < s.cfg.txFifoDepth) :
    step (setBus w F (.bs3 h) (s.withSchedule (workerStep w a :: rest))) = .next (setBus w F (.bs6 h) (s.withSchedule rest)) := by
  have hf : hwFree (s.withSchedule rest) ≠ 0 := (hwFree_ne_zero_iff _).2 hroom
  rw [step_setBus s w F _ a rest hr]
  simp [busStep, stepBs3, hf]

theorem step_bs6_room (hroom : s.env.txFifo.length < s.cfg.txFifoDepth) :
    step (setBus w F (.bs6 h) (s.withSchedule (workerStep w a :: rest))) =
      .next (exitBus w F (hwSubmit h (framePayload F) (s.withSchedule rest))) := by
  have hf : hwFree (s.withSchedule rest) ≠ 0 := (hwFree_ne_zero_iff _).2 hroom
  rw [step_setBus s w F _ a rest hr]
  simp [busStep, stepBs6, hf]

end

section
variable {a1 a2 a3 a4 a5 a6 a7 a8 : Answers} {rest : List Event} (hr : s.running)
include hr

/-- With the breaker closed and a free slot either worker submits its Frame in four steps, never waiting (R207, R209, R210, R215). -/
theorem runSteps_bus_submits (hclosed : s.dropCount ≤ s.cfg.dropThreshold) (hroom : s.env.txFifo.length < s.cfg.txFifoDepth)
    (hh : toTxHeader F = some h) :
    runSteps 4 (setBus w F .bs1 (s.withSchedule (workerStep w a1 :: workerStep w a2 :: workerStep w a3 :: workerStep w a4 :: rest))) =
      .next (exitBus w F (hwSubmit h (framePayload F) (s.withSchedule rest))) :=
  runSteps_next (step_bs1_closed hr hclosed) <| runSteps_next (step_bs2_header hr hh) <| runSteps_next (step_bs3_room hr hroom) <|
    runSteps_next (step_bs6_room hr hroom) rfl

/-- A connected transport that accepts has the line in two steps (R220, R221). -/
theorem runSteps_usb_accepted {line : List Byte} (hc : s.env.connected = true) (he : encodeFrame s.cfg F = some line)
    (hl : line.length ≤ s.cfg.usbBufSize) (ha : a2.usbAccepts = true) :
    runSteps 2 (setUsb w F .us1 (s.withSchedule (workerStep w a1 :: workerStep w a2 :: rest))) =
      .next (exitUsb w F (usbQueue line (s.withSchedule rest))) := by
  obtain ⟨-, -, encoded, -, -, -⟩ := usbForwardingSteps s w F line a1 (workerStep w a2 :: rest) hr
  obtain ⟨-, -, -, -, attempt, -⟩ := usbForwardingSteps s w F line a2 rest hr
  obtain ⟨accepted, -, -⟩ := attempt (.us2 line) s.cfg.usbRetries (.inl ⟨rfl, rfl⟩)
  exact runSteps_next (encoded hc he hl) (runSteps_next (accepted ha) rfl)

/-! ## The workers' loops around it -/

theorem step_rxw_takes {x : Tagged} {l : List Tagged} (hp : s.rxw = .idle) :
    step ((s.withSchedule (.rxwStep a1 :: rest)).withInQ (x :: l)) = .next (((s.withInQ l).withSchedule rest).withRxw (.got x)) :=
  step_rxw_dequeues (s := (s.withSchedule (.rxwStep a1 :: rest)).withInQ (x :: l)) hr hp rfl rfl

theorem step_txw_takes {l : List Frame} (hp : s.txw = .idle) :
    step ((s.withSchedule (.txwStep a1 :: rest)).withOutQ (F :: l)) = .next (((s.withOutQ l).withSchedule rest).withTxw (.got F)) :=
  step_txw_dequeues (s := (s.withSchedule (.txwStep a1 :: rest)).withOutQ (F :: l)) hr hp rfl rfl

theorem step_rxw_routes_serial {x : Tagged} (hx : transmittable x.frame = true) (ho : x.origin = .serial) :
    step ((s.withSchedule (.rxwStep a1 :: rest)).withRxw (.got x)) = .next (setBus .rxw x.frame .bs1 (s.withSchedule rest)) :=
  (step_rxwStep (s := (s.withSchedule (.rxwStep a1 :: rest)).withRxw (.got x)) hr rfl).trans (congrArg _ (rxwGot_serial hx ho))

theorem step_txw_routes (hF : transmittable F = true) :
    step ((s.withSchedule (.txwStep a1 :: rest)).withTxw (.got F)) = .next (setBus .txw F .bs1 (s.withSchedule rest)) :=
  (step_txwStep (s := (s.withSchedule (.txwStep a1 :: rest)).withTxw (.got F)) hr rfl).trans (congrArg _ (txwGot_transmittable hF))

/-- The receive worker takes a serial Frame from InQ to the hardware FIFO in six steps and is idle again. -/
theorem runSteps_rxw_submits {x : Tagged} {l : List Tagged} (hp : s.rxw = .idle) (hclosed : s.dropCount ≤ s.cfg.dropThreshold)
    (hroom : s.env.txFifo.length < s.cfg.txFifoDepth) (hh : toTxHeader x.frame = some h) (ho : x.origin = .serial) :
    runSteps 6 ((s.withSchedule
        (.rxwStep a1 :: .rxwStep a2 :: .rxwStep a3 :: .rxwStep a4 :: .rxwStep a5 :: .rxwStep a6 :: rest)).withInQ (x :: l)) =
      .next (hwSubmit h (framePayload x.frame) ((s.withSchedule rest).withInQ l)) := by
  have submitted := runSteps_bus_submits (s := s.withInQ l) (w := .rxw) (a1 := a3) (a2 := a4) (a3 := a5) (a4 := a6) (rest := rest)
    hr hclosed hroom hh
  refine (runSteps_next (step_rxw_takes hr hp) (runSteps_next
    (step_rxw_routes_serial (s := s.withInQ l) hr (transmittable_of_toTxHeader hh) ho) submitted)).trans ?_
  exact congrArg _ (State.withRxw_self (s := hwSubmit h (framePayload x.frame) ((s.withSchedule rest).withInQ l)) hp)

/-- The transmit worker takes a Frame from OutQ to the hardware FIFO and its line to the transport in eight steps and is idle again. -/
theorem runSteps_txw_sends {l : List Frame} {line : List Byte} (hp : s.txw = .idle) (hclosed : s.dropCount ≤ s.cfg.dropThreshold)
    (hroom : s.env.txFifo.length < s.cfg.txFifoDepth) (hh : toTxHeader F = some h) (hc : s.env.connected = true)
    (he : encodeFrame s.cfg F = some line) (hl : line.length ≤ s.cfg.usbBufSize) (ha : a8.usbAccepts = true) :
    runSteps 8 ((s.withSchedule (.txwStep a1 :: .txwStep a2 :: .txwStep a3 :: .txwStep a4 :: .txwStep a5 :: .txwStep a6 ::
        .txwStep a7 :: .txwStep a8 :: rest)).withOutQ (F :: l)) =
      .next (usbQueue line (hwSubmit h (framePayload F) ((s.withSchedule rest).withOutQ l))) := by
  have submitted := runSteps_bus_submits (s := s.withOutQ l) (w := .txw) (a1 := a3) (a2 := a4) (a3 := a5) (a4 := a6)
    (rest := .txwStep a7 :: .txwStep a8 :: rest) hr hclosed hroom hh
  have forwarded := runSteps_usb_accepted (s := hwSubmit h (framePayload F) (s.withOutQ l)) (w := .txw) (a1 := a7) (rest := rest)
    hr hc he hl ha
  refine (runSteps_next (step_txw_takes hr hp) (runSteps_next (step_txw_routes (s := s.withOutQ l) hr (transmittable_of_toTxHeader hh))
    (runSteps_add submitted forwarded))).trans ?_
  exact congrArg _ (State.withTxw_self (s := usbQueue line (hwSubmit h (framePayload F) ((s.withSchedule rest).withOutQ l))) hp)

end

/-- Settles O39: the line is the one entry of InQ, and the receive worker takes it to the FIFO and leaves InQ empty again. -/
theorem serialFrameReachesTheBus : Obligations.SerialFrameReachesTheBus := by
  intro s buf i h a1 a2 a3 a4 a5 a6 rest hr hcb hidle hempty hcap hclosed hroom hlen hdec hh hs
  calc runSteps 7 s
    _ = .next (hwSubmit h (framePayload i.frame) ((s.withSchedule rest).withInQ [])) :=
      runSteps_next (step_serLine_of_inQ_nil hr hcb (ne_invalid_of_toTxHeader hh) hempty hcap hlen hdec hs)
        (runSteps_rxw_submits hr hidle hclosed hroom hh rfl)
    _ = .next (hwSubmit h (framePayload i.frame) (s.withSchedule rest)) := by
      rw [State.withInQ_self (s := s.withSchedule rest) hempty]

/-- Settles O42: the Frame is the one entry of OutQ, and the transmit worker takes it to both media and leaves OutQ empty again. -/
theorem submittedFrameReachesBothMedia : Obligations.SubmittedFrameReachesBothMedia := by
  intro s f h line a1 a2 a3 a4 a5 a6 a7 a8 rest hr hidle hempty hcap hclosed hroom hc hh he hl ha hs
  calc runSteps 9 s
    _ = .next (usbQueue line (hwSubmit h (framePayload (.bus f)) (((s.withRet .accepted).withSchedule rest).withOutQ []))) :=
      runSteps_next (step_submitIsr_of_outQ_nil (F := .bus f) hr nofun hempty hcap hs)
        (runSteps_txw_sends (s := s.withRet .accepted) hr hidle hclosed hroom hh hc he hl ha)
    _ = .next (usbQueue line (hwSubmit h (framePayload (.bus f)) ((s.withRet .accepted).withSchedule rest))) := by
      rw [State.withOutQ_self (s := (s.withRet .accepted).withSchedule rest) hempty]

end Sys2Proof.Machine
end

section
/-! The single steps of the workers (R201 to R216) and of a completion (R255), as equations of a step with the whole next state. The
flow-control machine's equations are for either worker: the phase it starts from is overwritten by the phase the step ends in, so the phase
write moves outward past every other write. -/

namespace Sys2Proof.Machine

variable {s : State} {w : Worker} {F : Frame} {h : TxHeader}

/-! ## A phase write of the flow-control machine and the other writes -/

@[simp] theorem withDrop_setBus (p : BusPhase) (n : Nat) : (setBus w F p s).withDrop n = setBus w F p (s.withDrop n) := by cases w <;> rfl
@[simp] theorem logged_setBus (p : BusPhase) (e : LogEvent) : (setBus w F p s).logged e = setBus w F p (s.logged e) := by cases w <;> rfl
@[simp] theorem withWaiting_setBus (p : BusPhase) (v : Worker) (b : Bool) :
    (setBus w F p s).withWaiting v b = setBus w F p (s.withWaiting v b) := by cases w <;> rfl
@[simp] theorem withNotify_setBus (p : BusPhase) (v : Worker) (b : Bool) :
    (setBus w F p s).withNotify v b = setBus w F p (s.withNotify v b) := by cases w <;> rfl
@[simp] theorem withTxFifo_setBus (p : BusPhase) (l : List HwEntry) :
    (setBus w F p s).withTxFifo l = setBus w F p (s.withTxFifo l) := by cases w <;> rfl
@[simp] theorem exitBus_setBus (p : BusPhase) : exitBus w F (setBus w F p s) = exitBus w F s := by cases w <;> rfl

/-! ## Either worker in the flow-control machine -/

section
variable {a : Answers} {rest : List Event} (hr : s.running)
include hr

/-- The breaker test is strict: at the threshold it is closed (R207). -/
theorem step_bs1_open (hopen : s.cfg.dropThreshold < s.dropCount) :
    step (setBus w F .bs1 (s.withSchedule (workerStep w a :: rest))) = .next (setBus w F (.bs1b s.dropCount) (s.withSchedule rest)) := by
  have hb : breakerOpen (s.withSchedule rest) = true := decide_eq_true hopen
  rw [step_setBus s w F _ a rest hr]
  simp [busStep, stepBs1, hb]

theorem step_bs1b (d : Nat) :
    step (setBus w F (.bs1b d) (s.withSchedule (workerStep w a :: rest))) =
      .next (exitBus w F ((s.withSchedule rest).withDrop ((if s.cfg.atomicCounters then s.dropCount else d) + 1))) := by
  rw [step_setBus s w F _ a rest hr]
  simp [busStep, stepBs1b]

theorem step_bs2_noHeader (hh : toTxHeader F = none) :
    step (setBus w F .bs2 (s.withSchedule (workerStep w a :: rest))) =
      .next (exitBus w F ((s.withSchedule rest).logged (.hdrConvFail (cmdOf F)))) := by
  rw [step_setBus s w F _ a rest hr]
  simp [busStep, stepBs2, hh]

theorem step_bs3_full (hfull : s.cfg.txFifoDepth ≤ s.env.txFifo.length) :
    step (setBus w F (.bs3 h) (s.withSchedule (workerStep w a :: rest))) = .next (setBus w F (.bs4 h) (s.withSchedule rest)) := by
  have hf : hwFree (s.withSchedule rest) = 0 := Nat.sub_eq_zero_of_le hfull
  rw [step_setBus s w F _ a rest hr]
  simp [busStep, stepBs3, hf]

theorem step_bs4 :
    step (setBus w F (.bs4 h) (s.withSchedule (workerStep w a :: rest))) =
      .next (setBus w F (.bs5 h) ((s.withSchedule rest).withWaiting w true)) := by
  rw [step_setBus s w F _ a rest hr]
  simp [busStep, stepBs4]

theorem step_bs5_notified (hn : s.notify.get w = true) :
    step (setBus w F (.bs5 h) (s.withSchedule (workerStep w a :: rest))) =
      .next (setBus w F (.bs6 h) ((s.withSchedule rest).withNotify w false)) := by
  rw [step_setBus s w F _ a rest hr]
  simp [busStep, stepBs5, hn]

theorem step_bs5_timedOut (hn : s.notify.get w = false) :
    step (setBus w F (.bs5 h) (s.withSchedule (workerStep w a :: rest))) = .next (setBus w F .bs5b (s.withSchedule rest)) := by
  rw [step_setBus s w F _ a rest hr]
  simp [busStep, stepBs5, hn]

theorem step_bs5b_reads (ha : s.cfg.atomicCounters = false) :
    step (setBus w F .bs5b (s.withSchedule (workerStep w a :: rest))) =
      .next (setBus w F (.bs5c s.dropCount) (s.withSchedule rest)) := by
  rw [step_setBus s w F _ a rest hr]
  simp [busStep, stepBs5b, ha]

theorem step_bs5b_atomic (ha : s.cfg.atomicCounters = true) :
    step (setBus w F .bs5b (s.withSchedule (workerStep w a :: rest))) =
      .next (exitBus w F ((s.withSchedule rest).withDrop (s.dropCount + 1))) := by
  rw [step_setBus s w F _ a rest hr]
  simp [busStep, stepBs5b, ha]

theorem step_bs5c (d : Nat) :
    step (setBus w F (.bs5c d) (s.withSchedule (workerStep w a :: rest))) =
      .next (exitBus w F ((s.withSchedule rest).withDrop (d + 1))) := by
  rw [step_setBus s w F _ a rest hr]
  simp [busStep, stepBs5c]

theorem step_bs6_full_unset (hfull : s.cfg.txFifoDepth ≤ s.env.txFifo.length) (hp : s.cfg.submitFullPolicy = .unset) :
    step (setBus w F (.bs6 h) (s.withSchedule (workerStep w a :: rest))) = .refused .submitFullUnset := by
  have hf : hwFree (s.withSchedule rest) = 0 := Nat.sub_eq_zero_of_le hfull
  rw [step_setBus s w F _ a rest hr]
  simp [busStep, stepBs6, hf, hp]

theorem step_bs6_full_answered (hfull : s.cfg.txFifoDepth ≤ s.env.txFifo.length) (hp : s.cfg.submitFullPolicy = .environment)
    (hfit : a.fullFifo.length ≤ s.cfg.txFifoDepth) :
    step (setBus w F (.bs6 h) (s.withSchedule (workerStep w a :: rest))) =
      .next (exitBus w F ((s.withSchedule rest).withTxFifo a.fullFifo)) := by
  have hf : hwFree (s.withSchedule rest) = 0 := Nat.sub_eq_zero_of_le hfull
  rw [step_setBus s w F _ a rest hr]
  simp [busStep, stepBs6, hf, hp, hfit]

end

/-- Settles O35: the two answers of the test, and the drop under both settings of `ATOMIC_COUNTERS`. -/
theorem breakerTestAndDrop : Obligations.BreakerTestAndDrop := by
  refine fun s w F d a rest hr => ⟨step_bs1_open hr, step_bs1_closed hr, fun ha => ?_, fun ha => ?_⟩
  · rw [step_bs1b hr, ha]
    rfl
  · rw [step_bs1b hr, ha]
    rfl

/-- Settles O36: one equation per phase between the breaker test and the submit, two where the phase branches. -/
theorem roomWaitSteps : Obligations.RoomWaitSteps :=
  fun _ _ _ _ d _ _ hr =>
    ⟨step_bs2_header hr, step_bs2_noHeader hr, step_bs5b_reads hr, step_bs5b_atomic hr, step_bs5c hr d, step_bs3_full hr,
     step_bs3_room hr, step_bs4 hr, step_bs5_notified hr, step_bs5_timedOut hr⟩

/-- Settles O37: the submit by its three cases: a free slot, and a full FIFO under each setting of the policy. -/
theorem hardwareSubmitStep : Obligations.HardwareSubmitStep :=
  fun _ _ _ _ _ _ hr => ⟨step_bs6_room hr, step_bs6_full_unset hr, step_bs6_full_answered hr⟩

/-! ## The workers' loops -/

/-- Only the frame commands are transmittable (R200). -/
theorem transmittable_eq_false_of_ne_bus (hF : ∀ f, F ≠ .bus f) : transmittable F = false :=
  transmittable_eq_false_of_toTxHeader (headerConversion.2 F hF).1

section
variable {a : Answers} {rest : List Event} (hr : s.running)
include hr

theorem step_txw_blocked (hp : s.txw = .idle) (hq : s.outQ = []) (hs : s.schedule = .txwStep a :: rest) :
    step s = .next (s.withSchedule rest) := by
  rw [step_txwStep hr hs]
  simp [txwStep, txwIdle, hp, hq]

theorem step_txw_got (hp : s.txw = .got F) (hs : s.schedule = .txwStep a :: rest) : step s = .next (txwGot F (s.withSchedule rest)) := by
  rw [step_txwStep hr hs]
  simp [txwStep, hp]

theorem step_rxw_blocked (hp : s.rxw = .idle) (hq : s.inQ = []) (hs : s.schedule = .rxwStep a :: rest) :
    step s = .next (s.withSchedule rest) := by
  rw [step_rxwStep hr hs]
  simp [rxwStep, rxwIdle, hp, hq]

theorem step_rxw_got {x : Tagged} (hp : s.rxw = .got x) (hs : s.schedule = .rxwStep a :: rest) :
    step s = .next (rxwGot x (s.withSchedule rest)) := by
  rw [step_rxwStep hr hs]
  simp [rxwStep, hp]

theorem step_rxw_reports (hp : s.rxw = .rst F) (hs : s.schedule = .rxwStep a :: rest) :
    step s = .next ((((s.withSchedule rest).logged (.dropReport s.dropCount)).withDrop 0).withRxw .idle) := by
  rw [step_rxwStep hr hs]
  simp [rxwStep, rxwRst, hp]

end

/-- Settles O33: each worker's loop by its phase and the head of its queue; what is no frame command it discards. -/
theorem workersDequeueAndRoute : Obligations.WorkersDequeueAndRoute :=
  fun _ _ _ hr =>
    ⟨fun hs =>
      ⟨fun hp hq => step_txw_blocked hr hp hq hs, fun _ _ hp hq => step_txw_dequeues hr hp hq hs, fun _ hp => step_txw_got hr hp hs,
       fun _ hp hF => step_txw_discards hr hp (transmittable_eq_false_of_ne_bus hF) hs⟩,
     fun hs =>
      ⟨fun hp hq => step_rxw_blocked hr hp hq hs, fun _ _ hp hq => step_rxw_dequeues hr hp hq hs, fun _ hp => step_rxw_got hr hp hs,
       fun _ hp => step_rxw_got hr hp hs, fun _ hp hx => step_rxw_discards hr hp (transmittable_eq_false_of_ne_bus hx) hs⟩⟩

/-- Settles O34: the reset is the worker's last phase, whatever the environment answers. -/
theorem busReceptionClearsTheDropCount : Obligations.BusReceptionClearsTheDropCount :=
  fun _ _ _ _ hr hs hp => step_rxw_reports hr hp hs

/-! ## A completion -/

/-- The wake in closed form: the receive worker's flag moves to its slot, and the transmit worker's only where the other did not wait (R255). -/
theorem wakeOne_eq (s : State) : wakeOne s = { s with
    waiting := { rxw := false, txw := s.waiting.rxw && s.waiting.txw }
    notify := { rxw := s.notify.rxw || s.waiting.rxw, txw := s.notify.txw || (!s.waiting.rxw && s.waiting.txw) } } := by
  obtain ⟨cfg, outQ, inQ, drop, err, ⟨wr, wt⟩, ⟨nr, nt⟩, txw, rxw, halted, constructed, callback, log, submitting, ret, env, schedule⟩ := s
  cases wr with
  | true => simp [wakeOne, State.withWaiting, State.withNotify, PerWorker.set]
  | false => cases wt <;> simp [wakeOne, State.withWaiting, State.withNotify, PerWorker.set]

theorem step_txComplete {slot : HwEntry} {l : List HwEntry} {rest : List Event} (hr : s.running) (hs : s.schedule = .txComplete :: rest)
    (hf : s.env.txFifo = slot :: l) : step s = .next (txcIsr ((s.withSchedule rest).withTxFifo l)) := by
  rw [step_move hs nofun]
  exact (completeTx_occupied (s := s.withSchedule rest) hf).trans
    (guarded_running ((s.withSchedule rest).withTxFifo l) (fun s => .next (txcIsr s)) hr)

/-- Settles O29: the completion takes its slot, and the handler clears the counters before the wake. -/
theorem txCompleteStep : Obligations.TxCompleteStep := by
  intro s slot l rest hr hs hf
  rw [step_txComplete hr hs hf, txcIsr, wakeOne_eq]
  rfl

end Sys2Proof.Machine
end

section
/-! Runs of the flow-control machine (R206 to R216) that meet an obstacle: an open breaker, a full hardware FIFO, a completion between two
steps of a worker (R288, R289); and the path of a bus Frame to the transport (R203 to R205, R220, R221). -/

namespace Sys2Proof.Machine

variable {s : State} {w : Worker} {F : Frame} {h : TxHeader}

theorem State.withSchedule_self {l : List Event} (hs : s.schedule = l) : s.withSchedule l = s := by subst hs; rfl

/-! ## The flags and the environment under a phase write -/

@[simp] theorem setBus_waiting (p : BusPhase) : (setBus w F p s).waiting = s.waiting := by cases w <;> rfl
@[simp] theorem exitBus_waiting : (exitBus w F s).waiting = s.waiting := by cases w <;> rfl
@[simp] theorem exitBus_env : (exitBus w F s).env = s.env := by cases w <;> rfl

/-! ## The timeout -/

section
variable {a1 a2 a3 a4 a5 a6 a7 : Answers} {rest : List Event} (hr : s.running) (ha : s.cfg.atomicCounters = false)
include hr ha

/-- A worker that nobody notifies counts a drop in the four steps from its mark on, and its flag stays set (R211, R213, R214). -/
theorem runSteps_wait_timesOut (hn : s.notify.get w = false) :
    runSteps 4 (setBus w F (.bs4 h) (s.withSchedule (workerStep w a1 :: workerStep w a2 :: workerStep w a3 :: workerStep w a4 :: rest))) =
      .next (exitBus w F (((s.withSchedule rest).withWaiting w true).withDrop (s.dropCount + 1))) :=
  runSteps_next (step_bs4 hr) <| runSteps_next (step_bs5_timedOut (s := s.withWaiting w true) hr hn) <|
    runSteps_next (step_bs5b_reads (s := s.withWaiting w true) hr ha) <| runSteps_next (step_bs5c (s := s.withWaiting w true) hr _) rfl

/-- With the breaker closed and no free slot the three steps to the mark come before it (R207, R209, R210). -/
theorem runSteps_bus_timesOut (hclosed : s.dropCount ≤ s.cfg.dropThreshold) (hfull : s.cfg.txFifoDepth ≤ s.env.txFifo.length)
    (hn : s.notify.get w = false) (hh : toTxHeader F = some h) :
    runSteps 7 (setBus w F .bs1 (s.withSchedule (workerStep w a1 :: workerStep w a2 :: workerStep w a3 :: workerStep w a4 ::
        workerStep w a5 :: workerStep w a6 :: workerStep w a7 :: rest))) =
      .next (exitBus w F (((s.withSchedule rest).withWaiting w true).withDrop (s.dropCount + 1))) :=
  runSteps_next (step_bs1_closed hr hclosed) <| runSteps_next (step_bs2_header hr hh) <| runSteps_next (step_bs3_full hr hfull) <|
    runSteps_wait_timesOut hr ha hn

end

/-- Settles O44: the steps named are all there are in the schedule before `rest`. -/
theorem roomTimeoutCountsOneDrop : Obligations.RoomTimeoutCountsOneDrop := by
  intro s w F h a1 a2 a3 a4 a5 a6 a7 rest hr ha hclosed hfull hn hh hs
  rw [← State.withSchedule_self hs]
  exact runSteps_bus_timesOut hr ha hclosed hfull hn hh

/-! ## A completion between two steps of a worker -/

/-- The handler looks at no phase and at no move to come (R255). -/
theorem txcIsr_setBus (p : BusPhase) : txcIsr (setBus w F p s) = setBus w F p (txcIsr s) := by
  simp only [txcIsr, wakeOne_eq]
  cases w <;> rfl

theorem txcIsr_withSchedule (l : List Event) : txcIsr (s.withSchedule l) = (txcIsr s).withSchedule l := by
  simp only [txcIsr, wakeOne_eq]
  rfl

theorem txcIsr_errCount : (txcIsr s).errCount = 0 := by simp [txcIsr, wakeOne_eq]

theorem txcIsr_running (hr : s.running) : (txcIsr s).running :=
  ⟨(txcIsr_sameData s).constructed.trans hr.1, (txcIsr_halted s).trans hr.2⟩

/-- Where neither worker waits the handler only clears the counters. -/
theorem txcIsr_of_not_waiting (hw : s.waiting = { rxw := false, txw := false }) : txcIsr s = (s.withDrop 0).withErr 0 := by
  simp [txcIsr, wakeOne, hw]

/-- A completion leaves a worker where it stands in the flow-control machine. -/
theorem step_txComplete_setBus {p : BusPhase} {slot : HwEntry} {l : List HwEntry} {rest : List Event} (hr : s.running)
    (hf : s.env.txFifo = slot :: l) :
    step (setBus w F p (s.withSchedule (.txComplete :: rest))) = .next (setBus w F p ((txcIsr (s.withTxFifo l)).withSchedule rest)) := by
  rw [← txcIsr_withSchedule, ← txcIsr_setBus]
  cases w with
  | txw => exact step_txComplete (s := (s.withSchedule (.txComplete :: rest)).withTxw (.bus F p)) hr rfl hf
  | rxw => exact step_txComplete (s := (s.withSchedule (.txComplete :: rest)).withRxw (.bus F p)) hr rfl hf

/-- Settles O45: the worker writes the value it read before the handler cleared the count. -/
theorem counterResetCanBeLost : Obligations.CounterResetCanBeLost := by
  intro s w F a1 a2 rest hr ha hne hs
  obtain ⟨slot, l, hf⟩ := List.exists_cons_of_ne_nil hne
  have written := step_bs5c (s := txcIsr (s.withTxFifo l)) (w := w) (F := F) (a := a2) (rest := rest) (txcIsr_running hr) s.dropCount
  have run : runSteps 3 (setBus w F .bs5b (s.withSchedule (workerStep w a1 :: .txComplete :: workerStep w a2 :: rest))) = .next _ :=
    runSteps_next (step_bs5b_reads hr ha) (runSteps_next (step_txComplete_setBus hr hf) (runSteps_next written rfl))
  rw [State.withSchedule_self hs] at run
  exact ⟨_, run, by simp, by simp [txcIsr_errCount]⟩

/-- Settles O46: with nobody marked yet the handler wakes nobody, and the worker that marks itself after it waits in vain. -/
theorem wakeUpCanBeLost : Obligations.WakeUpCanBeLost := by
  intro s w F h a1 a2 a3 a4 rest hr ha hdepth hne hw hn hs
  obtain ⟨slot, l, hf⟩ := List.exists_cons_of_ne_nil hne
  have completed := step_txComplete_setBus (w := w) (F := F) (p := .bs4 h)
    (rest := workerStep w a1 :: workerStep w a2 :: workerStep w a3 :: workerStep w a4 :: rest) hr hf
  rw [State.withSchedule_self hs, txcIsr_of_not_waiting (s := s.withTxFifo l) hw] at completed
  have timedOut := runSteps_wait_timesOut (s := ((s.withTxFifo l).withDrop 0).withErr 0) (w := w) (F := F) (h := h) (a1 := a1) (a2 := a2)
    (a3 := a3) (a4 := a4) (rest := rest) hr ha hn
  refine ⟨⟨_, runSteps_next completed rfl, by simp, by simp⟩, _, runSteps_next completed timedOut, by simp, by simp, by simp, ?_⟩
  simp only [hf, List.length_cons] at hdepth
  simp [hwFree, ← hdepth]

/-! ## Serial Frames on an open breaker -/

/-- The receive worker takes a serial Frame from InQ and drops it in four steps, under both settings of `ATOMIC_COUNTERS`: alone, it finds the
count it read (R204, R207, R208). -/
theorem runSteps_rxw_drops {x : Tagged} {l : List Tagged} {a1 a2 a3 a4 : Answers} {rest : List Event} (hr : s.running) (hp : s.rxw = .idle)
    (hopen : s.cfg.dropThreshold < s.dropCount) (hx : transmittable x.frame = true) (ho : x.origin = .serial) :
    runSteps 4 ((s.withSchedule (.rxwStep a1 :: .rxwStep a2 :: .rxwStep a3 :: .rxwStep a4 :: rest)).withInQ (x :: l)) =
      .next (((s.withSchedule rest).withInQ l).withDrop (s.dropCount + 1)) := by
  have opened := step_bs1_open (s := s.withInQ l) (w := .rxw) (F := x.frame) (a := a3) (rest := .rxwStep a4 :: rest) hr hopen
  have dropped := step_bs1b (s := s.withInQ l) (w := .rxw) (F := x.frame) (a := a4) (rest := rest) hr s.dropCount
  rw [State.withInQ_dropCount, ite_self] at dropped
  refine (runSteps_next (step_rxw_takes hr hp) (runSteps_next (step_rxw_routes_serial (s := s.withInQ l) hr hx ho)
    (runSteps_next opened (runSteps_next dropped rfl)))).trans ?_
  exact congrArg _ (State.withRxw_self (s := ((s.withSchedule rest).withInQ l).withDrop (s.dropCount + 1)) hp)

/-- Every dropped Frame leaves the breaker open for the next. -/
theorem runSteps_rxw_drops_all {q : List Tagged} {as : List Answers} {rest : List Event} (hr : s.running) (hp : s.rxw = .idle)
    (hopen : s.cfg.dropThreshold < s.dropCount) (hq : ∀ x ∈ q, transmittable x.frame = true ∧ x.origin = .serial)
    (has : as.length = 4 * q.length) :
    runSteps (4 * q.length) ((s.withSchedule (as.map .rxwStep ++ rest)).withInQ q) =
      .next (((s.withSchedule rest).withInQ []).withDrop (s.dropCount + q.length)) := by
  induction q generalizing s as with
  | nil =>
    obtain rfl := List.length_eq_zero_iff.1 has
    rfl
  | cons x l ih =>
    obtain ⟨⟨hx, ho⟩, hl⟩ := List.forall_mem_cons.1 hq
    match as, has with
    | a1 :: a2 :: a3 :: a4 :: as, has =>
      have others := ih (s := s.withDrop (s.dropCount + 1)) (as := as) hr hp (Nat.lt_succ_of_lt hopen) hl
        (by simp only [List.length_cons] at has; omega)
      have hcount : s.dropCount + (x :: l).length = s.dropCount + 1 + l.length := by simp only [List.length_cons]; omega
      rw [hcount]
      exact runSteps_add (runSteps_rxw_drops hr hp hopen hx ho) others

/-- Settles O43: the Frames are those of InQ. -/
theorem openBreakerCountsAndNeverSubmits : Obligations.OpenBreakerCountsAndNeverSubmits := by
  rintro n s as rest hr hp hopen rfl hq has hs
  have run := runSteps_rxw_drops_all (rest := rest) hr hp hopen hq has
  rwa [State.withSchedule_self hs, State.withInQ_self rfl] at run

/-! ## A bus Frame on its way to the transport -/

/-- The receive worker routes a Frame from the bus to the transport (R204). -/
theorem rxwGot_bus {x : Tagged} (hx : transmittable x.frame = true) (ho : x.origin = .bus) :
    rxwGot x s = s.withRxw (.usb x.frame .us1) := by simp [rxwGot, hx, ho]

section
variable {x : Tagged} {l : List Tagged} {a1 a2 a3 a4 a5 : Answers} {rest : List Event} (hr : s.running)
include hr

theorem step_rxw_routes_bus (hx : transmittable x.frame = true) (ho : x.origin = .bus) :
    step ((s.withSchedule (.rxwStep a1 :: rest)).withRxw (.got x)) = .next (setUsb .rxw x.frame .us1 (s.withSchedule rest)) :=
  (step_rxw_got (s := (s.withSchedule (.rxwStep a1 :: rest)).withRxw (.got x)) hr rfl rfl).trans (congrArg _ (rxwGot_bus hx ho))

/-- The receive worker takes a bus Frame from InQ to the transport in four steps and reports the drops in the fifth (R204, R205). -/
theorem runSteps_rxw_forwards {line : List Byte} (hp : s.rxw = .idle) (hx : transmittable x.frame = true) (ho : x.origin = .bus)
    (hc : s.env.connected = true) (he : encodeFrame s.cfg x.frame = some line) (hl : line.length ≤ s.cfg.usbBufSize)
    (ha : a4.usbAccepts = true) :
    runSteps 5 ((s.withSchedule (.rxwStep a1 :: .rxwStep a2 :: .rxwStep a3 :: .rxwStep a4 :: .rxwStep a5 :: rest)).withInQ (x :: l)) =
      .next (((usbQueue line ((s.withSchedule rest).withInQ l)).logged (.dropReport s.dropCount)).withDrop 0) := by
  have forwarded := runSteps_usb_accepted (s := s.withInQ l) (w := .rxw) (F := x.frame) (a1 := a3) (rest := .rxwStep a5 :: rest) hr hc he hl ha
  have reported := step_rxw_reports (s := exitUsb .rxw x.frame (usbQueue line ((s.withInQ l).withSchedule (.rxwStep a5 :: rest)))) hr rfl rfl
  refine (runSteps_next (step_rxw_takes hr hp) (runSteps_next (step_rxw_routes_bus (s := s.withInQ l) hr hx ho)
    (runSteps_add forwarded (runSteps_next reported rfl)))).trans ?_
  exact congrArg _ (State.withRxw_self
    (s := ((usbQueue line ((s.withSchedule rest).withInQ l)).logged (.dropReport s.dropCount)).withDrop 0) hp)

/-- A received frame that wrap takes is a delivery; in an empty InQ its Frame is alone (R254). -/
theorem step_rxFrame_of_inQ_nil {fifo : RxFifo} {hd : RxHeader} {bytes : List Byte} (hq : s.inQ = []) (hcap : 0 < s.cfg.inQCap)
    (hw : wrapRx s.cfg hd bytes = some F) (hs : s.schedule = .rxFrame fifo hd bytes :: rest) :
    step s = .next ((s.withSchedule rest).withInQ [{ frame := F, origin := .bus }]) := by
  have hroom : (s.withSchedule rest).inQ.length < (s.withSchedule rest).cfg.inQCap := by simpa [hq] using hcap
  rcases rxIsr_cases fifo hd bytes (s.withSchedule rest) with ⟨hnone, -⟩ | ⟨G, hG, hrx⟩
  · exact absurd (hw.symm.trans hnone) nofun
  · obtain rfl : F = G := Option.some.inj (hw.symm.trans hG)
    rw [step_rxFrame hr hs, hrx, deliver_room F .bus _ (wrapRx_ne_invalid hw) hroom, State.withSchedule_inQ, hq]
    rfl

end

theorem transmittable_of_wrapRx {cfg : Config} {hd : RxHeader} {bytes : List Byte} (hw : wrapRx cfg hd bytes = some F) :
    transmittable F = true := by
  obtain ⟨-, -, rfl⟩ := wrapRx_some hw
  rfl

/-- Settles O41: the frame is the one entry of InQ, and the receive worker takes it to the transport and leaves InQ empty again. -/
theorem busFrameReachesUsb : Obligations.BusFrameReachesUsb := by
  intro s fifo hd bytes line F a1 a2 a3 a4 a5 rest hr hp hq hcap hc hw he hl ha hs
  have run := runSteps_next (step_rxFrame_of_inQ_nil hr hq hcap hw hs)
    (runSteps_rxw_forwards (x := { frame := F, origin := .bus }) (l := []) hr hp (transmittable_of_wrapRx hw) rfl hc he hl ha)
  rwa [State.withInQ_self (s := s.withSchedule rest) hq] at run

end Sys2Proof.Machine
end

section
/-! Both workers come back to `Idle` (R201 to R205, R216, R224, R298): what a worker in its loop needs to be served, a step that is always taken
and lowers its distance from `Idle`, and the run that the distance bounds. -/

namespace Sys2Proof.Machine

variable {s t : State} {w : Worker} {F : Frame} {a : Answers}

/-! ## The flow-control machine -/

theorem BusPhase.rank_pos (p : BusPhase) : 0 < p.rank := by cases p <;> exact Nat.succ_pos _

theorem BusPhase.rank_le (p : BusPhase) : p.rank ≤ 7 := by cases p <;> simp [BusPhase.rank]

/-- Only a submit to a full FIFO can be refused, and under `SUBMIT_FULL_POLICY` = environment it is not (R215, log 9). -/
theorem busStep_taken (hpolicy : s.cfg.submitFullPolicy = .environment) (ha : a.fit s.cfg) (p : BusPhase) :
    ∃ t, busStep w F p a s = .next t := by
  cases p with
  | bs6 h =>
    by_cases hf : hwFree s = 0
    · have hfit : a.fullFifo.length ≤ s.cfg.txFifoDepth := ha
      exact ⟨exitBus w F (s.withTxFifo a.fullFifo), by simp [busStep, stepBs6, hf, hpolicy, hfit]⟩
    · exact ⟨exitBus w F (hwSubmit h (framePayload F) s), if_neg hf⟩
  | _ => exact ⟨_, rfl⟩

theorem busStep_lowers {p : BusPhase} (h : busStep w F p a s = .next t) :
    ∃ s', (∃ p', t = setBus w F p' s' ∧ p'.rank < p.rank) ∨ t = exitBus w F s' := by
  rcases busStep_next h with ⟨rfl, -, rfl⟩ | ⟨rfl, -, rfl⟩ | ⟨d, -, rfl⟩ | ⟨-, -, rfl⟩ | ⟨hd, rfl, -, rfl⟩ | ⟨hd, rfl, -, rfl⟩ |
    ⟨hd, rfl, -, rfl⟩ | ⟨hd, rfl, rfl⟩ | ⟨hd, rfl, -, rfl⟩ | ⟨hd, rfl, -, rfl⟩ | ⟨-, -, rfl⟩ | ⟨rfl, -, rfl⟩ | ⟨d, -, rfl⟩ |
    ⟨hd, -, -, rfl⟩ | ⟨hd, -, -, -, -, rfl⟩
  · exact ⟨_, .inl ⟨_, rfl, by simp [BusPhase.rank]⟩⟩
  · exact ⟨_, .inl ⟨_, rfl, by simp [BusPhase.rank]⟩⟩
  · exact ⟨_, .inr rfl⟩
  · exact ⟨_, .inr rfl⟩
  · exact ⟨_, .inl ⟨_, rfl, by simp [BusPhase.rank]⟩⟩
  · exact ⟨_, .inl ⟨_, rfl, by simp [BusPhase.rank]⟩⟩
  · exact ⟨_, .inl ⟨_, rfl, by simp [BusPhase.rank]⟩⟩
  · exact ⟨_, .inl ⟨_, rfl, by simp [BusPhase.rank]⟩⟩
  · exact ⟨_, .inl ⟨_, rfl, by simp [BusPhase.rank]⟩⟩
  · exact ⟨_, .inl ⟨_, rfl, by simp [BusPhase.rank]⟩⟩
  · exact ⟨_, .inr rfl⟩
  · exact ⟨_, .inl ⟨_, rfl, by simp [BusPhase.rank]⟩⟩
  · exact ⟨_, .inr rfl⟩
  · exact ⟨_, .inr rfl⟩
  · exact ⟨_, .inr rfl⟩

/-! ## USB forwarding -/

theorem UsbPhase.rank_pos (retries : Nat) (p : UsbPhase) : 0 < p.rank retries := by cases p <;> simp only [UsbPhase.rank] <;> omega

/-- The retries left are fewer than there are, so no phase is farther from the end than the first. -/
theorem UsbPhase.rank_le {cfg : Config} {p : UsbPhase} (hp : p.ok cfg F) : p.rank cfg.usbRetries ≤ 2 + 2 * cfg.usbRetries := by
  cases p with
  | us1 => exact Nat.le_refl _
  | us2 bytes => simp [UsbPhase.rank]
  | us3 bytes left =>
    obtain ⟨-, hleft⟩ := hp
    simp only [UsbPhase.rank]
    omega
  | us4 bytes left =>
    obtain ⟨-, hleft⟩ := hp
    simp only [UsbPhase.rank]
    omega

/-- A Frame that meets R13 and the tables has a line that fits the output buffer (R43, R118). -/
theorem exists_line_of_wf {cfg : Config} (hc : cfg.wf = true) (hF : F.wf cfg = true) :
    ∃ line, encodeFrame cfg F = some line ∧ line.length ≤ cfg.usbBufSize := by
  obtain ⟨line, hline⟩ := Option.ne_none_iff_exists'.1 (encodeFrame_ne_none hc hF)
  have hlen : ∀ f, F = .bus f → f.len ≤ cfg.maxDlc := by
    rintro f rfl
    obtain ⟨-, -, -, hlen, -⟩ := (busFrame_wf_iff cfg f).1 hF
    exact hlen
  have hbuf : cfg.maxSize ≤ cfg.usbBufSize := by
    simp only [Config.wf, Bool.and_eq_true, decide_eq_true_eq] at hc
    obtain ⟨⟨⟨-, hbuf⟩, -⟩, -⟩ := hc
    exact hbuf
  exact ⟨line, hline, (size_le_maxSize hlen (size_of_encodeFrame hline)).trans hbuf⟩

theorem usbStep_taken (hc : s.cfg.wf = true) (hF : F.wf s.cfg = true) (p : UsbPhase) : ∃ t, usbStep w F p a s = .next t := by
  cases p with
  | us1 =>
    cases hconn : s.env.connected with
    | false => exact ⟨_, stepUs1_disconnected hconn⟩
    | true =>
      obtain ⟨line, hline, hfits⟩ := exists_line_of_wf hc hF
      exact ⟨_, stepUs1_fits hconn hline hfits⟩
  | _ => exact ⟨_, rfl⟩

theorem usbStep_lowers {p : UsbPhase} (h : usbStep w F p a s = .next t) :
    ∃ s', (∃ p', t = setUsb w F p' s' ∧ p'.rank s.cfg.usbRetries < p.rank s.cfg.usbRetries) ∨ t = exitUsb w F s' := by
  rcases usbStep_next h with ⟨-, -, rfl⟩ | ⟨bytes, rfl, -, -, rfl⟩ | ⟨bytes, rfl, rfl⟩ | ⟨bytes, left, rfl, rfl⟩ | ⟨bytes, left, rfl, rfl⟩
  · exact ⟨_, .inr rfl⟩
  · exact ⟨_, .inl ⟨_, rfl, by simp [UsbPhase.rank]⟩⟩
  · obtain ⟨s', -, ⟨r, hr, ht⟩ | ht⟩ := usbAttempt_shape w F bytes s.cfg.usbRetries a s
    · exact ⟨s', .inl ⟨_, ht, by simp only [UsbPhase.rank]; omega⟩⟩
    · exact ⟨s', .inr ht⟩
  · exact ⟨_, .inl ⟨_, rfl, by simp [UsbPhase.rank]⟩⟩
  · obtain ⟨s', -, ⟨r, hr, ht⟩ | ht⟩ := usbAttempt_shape w F bytes left a s
    · exact ⟨s', .inl ⟨_, ht, by simp only [UsbPhase.rank]; omega⟩⟩
    · exact ⟨s', .inr ht⟩

/-! ## The workers -/

/-- What lets every step of a worker be taken: a running block with the data invariant, whose Frames come to encode within R13, and which does
not refuse a submit to a full FIFO. -/
structure State.Serves (s : State) : Prop where
  running : s.running
  cfgWf : s.cfg.wf = true
  submitFull : s.cfg.submitFullPolicy = .environment
  inv : s.Inv
  heldEncode : s.HeldEncode

/-- The distance of a worker from `Idle`. -/
def State.distance (s : State) : Worker → Nat
  | .txw => s.txw.rank s.cfg.usbRetries
  | .rxw => s.rxw.rank s.cfg.usbRetries

theorem distance_txw_eq_zero : s.distance .txw = 0 ↔ s.txw = .idle := by
  cases hp : s.txw <;> simp [State.distance, TxwPhase.rank, hp, (UsbPhase.rank_pos _ _).ne']

theorem distance_rxw_eq_zero : s.distance .rxw = 0 ↔ s.rxw = .idle := by
  cases hp : s.rxw <;> simp [State.distance, RxwPhase.rank, hp, (BusPhase.rank_pos _).ne']

theorem distance_txw_le (h : s.Inv) : s.distance .txw ≤ 10 + 2 * s.cfg.usbRetries := by
  have hok := h.txwOk
  cases hp : s.txw with
  | idle => simp [State.distance, hp, TxwPhase.rank]
  | got F => simp [State.distance, hp, TxwPhase.rank]
  | bus F p =>
    have := p.rank_le
    simp only [State.distance, hp, TxwPhase.rank]
    omega
  | usb F p =>
    obtain ⟨-, hphase⟩ : transmittable F = true ∧ p.ok s.cfg F := by rwa [hp] at hok
    have := UsbPhase.rank_le hphase
    simp only [State.distance, hp, TxwPhase.rank]
    omega

theorem distance_rxw_le (h : s.Inv) : s.distance .rxw ≤ max 8 (4 + 2 * s.cfg.usbRetries) := by
  have hok := h.rxwOk
  cases hp : s.rxw with
  | idle => simp [State.distance, hp, RxwPhase.rank]
  | got x => simp [State.distance, hp, RxwPhase.rank]
  | bus F p =>
    have := p.rank_le
    simp only [State.distance, hp, RxwPhase.rank]
    omega
  | usb F p =>
    obtain ⟨-, hphase⟩ : transmittable F = true ∧ p.ok s.cfg F := by rwa [hp] at hok
    have := UsbPhase.rank_le hphase
    simp only [State.distance, hp, RxwPhase.rank]
    omega
  | rst F => simp [State.distance, hp, RxwPhase.rank]

/-- From every phase but `Idle` the transmit worker's step is taken: it moves on within a machine, or to the next machine, whose first phase
is nearer than the last of the one it leaves. -/
theorem txwStep_lowers (h : s.Serves) (ha : a.fit s.cfg) (hp : s.txw ≠ .idle) :
    ∃ t, txwStep a s = .next t ∧ t.txw.rank s.cfg.usbRetries < s.txw.rank s.cfg.usbRetries := by
  have held := h.heldEncode.txw
  cases hq : s.txw with
  | idle => exact absurd hq hp
  | got F =>
    refine ⟨txwGot F s, by simp [txwStep, hq], ?_⟩
    cases hF : transmittable F with
    | false => simp [txwGot, hF, TxwPhase.rank]
    | true =>
      simp only [txwGot_transmittable hF, State.withTxw_txw, TxwPhase.rank, BusPhase.rank]
      omega
  | bus F p =>
    obtain ⟨t, ht⟩ := busStep_taken (w := .txw) (F := F) h.submitFull ha p
    refine ⟨t, by simpa [txwStep, hq] using ht, ?_⟩
    obtain ⟨s', ⟨p', rfl, hlt⟩ | rfl⟩ := busStep_lowers ht
    · exact Nat.add_lt_add_left hlt _
    · exact Nat.lt_add_of_pos_right p.rank_pos
  | usb F p =>
    obtain ⟨t, ht⟩ := usbStep_taken (w := .txw) (a := a) h.cfgWf (held F (by rw [hq]; rfl)) p
    refine ⟨t, by simpa [txwStep, hq] using ht, ?_⟩
    obtain ⟨s', ⟨p', rfl, hlt⟩ | rfl⟩ := usbStep_lowers ht
    · exact hlt
    · exact UsbPhase.rank_pos _ p

/-- The same of the receive worker, which leaves USB forwarding for the drop report. -/
theorem rxwStep_lowers (h : s.Serves) (ha : a.fit s.cfg) (hp : s.rxw ≠ .idle) :
    ∃ t, rxwStep a s = .next t ∧ t.rxw.rank s.cfg.usbRetries < s.rxw.rank s.cfg.usbRetries := by
  have held := h.heldEncode.rxw
  cases hq : s.rxw with
  | idle => exact absurd hq hp
  | got x =>
    refine ⟨rxwGot x s, by simp [rxwStep, hq], ?_⟩
    cases hx : transmittable x.frame with
    | false => simp [rxwGot, hx, RxwPhase.rank]
    | true =>
      cases ho : x.origin with
      | serial => simp [rxwGot_serial hx ho, RxwPhase.rank, BusPhase.rank]
      | bus =>
        simp only [rxwGot_bus hx ho, State.withRxw_rxw, RxwPhase.rank, UsbPhase.rank]
        omega
  | bus F p =>
    obtain ⟨t, ht⟩ := busStep_taken (w := .rxw) (F := F) h.submitFull ha p
    refine ⟨t, by simpa [rxwStep, hq] using ht, ?_⟩
    obtain ⟨s', ⟨p', rfl, hlt⟩ | rfl⟩ := busStep_lowers ht
    · exact hlt
    · exact p.rank_pos
  | usb F p =>
    obtain ⟨t, ht⟩ := usbStep_taken (w := .rxw) (a := a) h.cfgWf ((held _ (by rw [hq]; rfl)).1 rfl) p
    refine ⟨t, by simpa [rxwStep, hq] using ht, ?_⟩
    obtain ⟨s', ⟨p', rfl, hlt⟩ | rfl⟩ := usbStep_lowers ht
    · exact Nat.add_lt_add_left hlt 1
    · exact Nat.lt_add_of_pos_right (UsbPhase.rank_pos _ p)
  | rst F => exact ⟨rxwRst s, by simp [rxwStep, hq], Nat.zero_lt_one⟩

/-! ## Steps back to back -/

theorem txwStep_keeps_running (hr : s.running) (h : txwStep a s = .next t) : t.running ∧ t.schedule = s.schedule := by
  have hh := txwStep_keeps_halted h
  obtain ⟨s', p, hs, rfl⟩ | ⟨F, l, -, rfl⟩ := txwStep_shape h
  · exact ⟨⟨hs.constructed.trans hr.1, hh.trans hr.2⟩, hs.schedule⟩
  · exact ⟨hr, rfl⟩

theorem rxwStep_keeps_running (hr : s.running) (h : rxwStep a s = .next t) : t.running ∧ t.schedule = s.schedule := by
  have hh := rxwStep_keeps_halted h
  obtain ⟨s', p, hs, rfl⟩ | ⟨x, l, -, rfl⟩ := rxwStep_shape h
  · exact ⟨⟨hs.constructed.trans hr.1, hh.trans hr.2⟩, hs.schedule⟩
  · exact ⟨hr, rfl⟩

theorem State.Serves.takeMove {e : Event} {rest : List Event} (h : s.Serves) (hs : s.schedule = e :: rest) : (s.withSchedule rest).Serves :=
  ⟨h.running, h.cfgWf, h.submitFull, h.inv.withSchedule rest, h.heldEncode.takeMove hs⟩

/-- A step that leaves the block running leaves it as able to serve its workers. -/
theorem State.Serves.next (h : s.Serves) (hstep : step s = .next t) (hr : t.running) : t.Serves where
  running := hr
  cfgWf := stepKeepsTheConfiguration s t hstep ▸ h.cfgWf
  submitFull := stepKeepsTheConfiguration s t hstep ▸ h.submitFull
  inv := stepKeepsTheInvariant s t h.inv hstep
  heldEncode := (stepKeepsFramesEncodable s).1 t h.heldEncode hstep

/-- A step of a worker away from `Idle` is taken, brings it nearer, and leaves the next step of it as able to. -/
theorem step_worker_lowers {rest : List Event} (h : s.Serves) (hs : s.schedule = workerStep w a :: rest) (ha : a.fit s.cfg)
    (haway : s.distance w ≠ 0) : ∃ t, step s = .next t ∧ t.Serves ∧ t.schedule = rest ∧ t.distance w < s.distance w := by
  cases w with
  | txw =>
    obtain ⟨t, ht, hlt⟩ := txwStep_lowers (h.takeMove hs) ha (mt distance_txw_eq_zero.2 haway)
    have hstep : step s = .next t := (step_txwStep h.running hs).trans ht
    obtain ⟨hr, hrest⟩ := txwStep_keeps_running (s := s.withSchedule rest) h.running ht
    exact ⟨t, hstep, h.next hstep hr, hrest, by rwa [State.distance, stepKeepsTheConfiguration s t hstep]⟩
  | rxw =>
    obtain ⟨t, ht, hlt⟩ := rxwStep_lowers (h.takeMove hs) ha (mt distance_rxw_eq_zero.2 haway)
    have hstep : step s = .next t := (step_rxwStep h.running hs).trans ht
    obtain ⟨hr, hrest⟩ := rxwStep_keeps_running (s := s.withSchedule rest) h.running ht
    exact ⟨t, hstep, h.next hstep hr, hrest, by rwa [State.distance, stepKeepsTheConfiguration s t hstep]⟩

/-- As many steps of a worker back to back as its distance is reach `Idle` on the way. -/
theorem exists_runSteps_idle {as : List Answers} {rest : List Event} (h : s.Serves) (hd : s.distance w ≤ as.length)
    (ha : ∀ a ∈ as, a.fit s.cfg) (hs : s.schedule = as.map (workerStep w) ++ rest) :
    ∃ k t, k ≤ as.length ∧ runSteps k s = .next t ∧ t.distance w = 0 := by
  induction as generalizing s with
  | nil => exact ⟨0, s, Nat.le_refl 0, rfl, Nat.le_zero.1 hd⟩
  | cons a as ih =>
    by_cases haway : s.distance w = 0
    · exact ⟨0, s, Nat.zero_le _, rfl, haway⟩
    · obtain ⟨ha, has⟩ := List.forall_mem_cons.1 ha
      obtain ⟨t, hstep, ht, hrest, hlt⟩ := step_worker_lowers h hs ha haway
      have hd' : t.distance w ≤ as.length := Nat.le_of_lt_succ (hlt.trans_le hd)
      obtain ⟨k, u, hk, hrun, hu⟩ := ih ht hd' (stepKeepsTheConfiguration s t hstep ▸ has) hrest
      exact ⟨k + 1, u, Nat.succ_le_succ hk, runSteps_next hstep hrun, hu⟩

/-- No move but a worker's own, a restart and a construction is one of these three. -/
theorem not_own_move {own : Answers → Event} {e : Event} {rest : List Event} (hs : s.schedule = e :: rest) (he : ∀ a, e ≠ own a)
    (hreset : e.resets = false) :
    ¬ ∃ rest, (∃ a, s.schedule = own a :: rest) ∨ s.schedule = .construct :: rest ∨ s.schedule = .restart :: rest := by
  rw [hs]
  rintro ⟨rest, ⟨a, hm⟩ | hm | hm⟩
  · exact he a (List.cons.inj hm).1
  · rw [(List.cons.inj hm).1] at hreset
    cases hreset
  · rw [(List.cons.inj hm).1] at hreset
    cases hreset

/-- Settles O51: the distance of the transmit worker, which its own steps lower and no other move touches. -/
theorem transmitWorkerAlwaysFinishes : Obligations.TransmitWorkerAlwaysFinishes := by
  refine fun s => ⟨fun hr hc hpolicy hinv hheld hp => ⟨fun a rest hs ha => ?_, fun as rest hlen ha hs => ?_⟩,
    fun e rest t hs he hreset hstep => ?_⟩
  · obtain ⟨t, ht, hlt⟩ := txwStep_lowers (State.Serves.takeMove ⟨hr, hc, hpolicy, hinv, hheld⟩ hs) ha hp
    exact ⟨t, (step_txwStep hr hs).trans ht, hlt⟩
  · obtain ⟨k, t, hk, hrun, ht⟩ := exists_runSteps_idle (w := .txw) ⟨hr, hc, hpolicy, hinv, hheld⟩
      (hlen ▸ distance_txw_le hinv) ha hs
    exact ⟨k, t, hlen ▸ hk, hrun, distance_txw_eq_zero.1 ht⟩
  · exact by_contra fun hne => not_own_move hs he hreset ((phasesChangeInTheirOwnSteps s t hstep).1 hne)

/-- Settles O52: the same of the receive worker, whose longest way is through the flow-control machine or the retries. -/
theorem receiveWorkerAlwaysFinishes : Obligations.ReceiveWorkerAlwaysFinishes := by
  refine fun s => ⟨fun hr hc hpolicy hinv hheld hp => ⟨fun a rest hs ha => ?_, fun as rest hlen ha hs => ?_⟩,
    fun e rest t hs he hreset hstep => ?_⟩
  · obtain ⟨t, ht, hlt⟩ := rxwStep_lowers (State.Serves.takeMove ⟨hr, hc, hpolicy, hinv, hheld⟩ hs) ha hp
    exact ⟨t, (step_rxwStep hr hs).trans ht, hlt⟩
  · obtain ⟨k, t, hk, hrun, ht⟩ := exists_runSteps_idle (w := .rxw) ⟨hr, hc, hpolicy, hinv, hheld⟩
      (hlen ▸ distance_rxw_le hinv) ha hs
    exact ⟨k, t, hlen ▸ hk, hrun, distance_rxw_eq_zero.1 ht⟩
  · exact by_contra fun hne => not_own_move hs he hreset ((phasesChangeInTheirOwnSteps s t hstep).2 hne)

end Sys2Proof.Machine
end

section
/-! `ERR_ISR` on a running block (R256): what each reading of `BERR_POST_TRIP` makes of an error below, at and past the threshold. -/

namespace Sys2Proof.Machine

variable {s : State} {sel : Option Nat} {post r : BerrReading}

/-! ## When it trips -/

/-- A reading the configuration sets is the reading of every event; where it sets none, each event brings its own. -/
theorem berrReading_eq_iff {cfg : Config} :
    berrReading cfg post = r ↔ cfg.berrPostTrip = some r ∨ (cfg.berrPostTrip = none ∧ post = r) := by
  unfold berrReading
  cases cfg.berrPostTrip <;> simp

theorem trips_below {threshold e : Nat} (h : e < threshold) (r : BerrReading) : trips threshold e r = false :=
  Bool.eq_false_iff.2 fun ht => h.not_ge (threshold_le_of_trips ht)

theorem trips_at_threshold (threshold : Nat) (r : BerrReading) : trips threshold threshold r = true := by
  cases r with
  | eq => exact decide_eq_true rfl
  | ge => exact decide_eq_true (Nat.le_refl threshold)
  | geReset => exact decide_eq_true (Nat.le_refl threshold)

theorem trips_ge_past {threshold e : Nat} (h : threshold < e) : trips threshold e .ge = true := decide_eq_true h.le

theorem trips_eq_past {threshold e : Nat} (h : threshold < e) : trips threshold e .eq = false := decide_eq_false h.ne'

/-! ## The handler and its move -/

theorem errIsr_counts (ht : trips s.cfg.errThreshold (s.errCount + 1) r = false) (sel : Option Nat) :
    errIsr sel r s = .next (s.withErr (s.errCount + 1)) := by simp [errIsr, ht]

theorem errIsr_trips (ht : trips s.cfg.errThreshold (s.errCount + 1) r = true) (hsel : ∀ k, sel = some k → k < s.env.txFifo.length) :
    errIsr sel r s = .next (errTrip sel r (s.withErr (s.errCount + 1))) := by
  have hoccupied : sel.all (slotOccupied s) = true := Option.all_eq_true _ _ |>.2 fun k hk => decide_eq_true (hsel k hk)
  simp [errIsr, ht, hoccupied]

section
variable {v : ErrVector} {rest : List Event} (hr : s.running) (hs : s.schedule = .busError v sel post :: rest)
include hr hs

theorem step_busError : step s = errIsr sel (berrReading s.cfg post) (s.withSchedule rest) := by
  rw [step_move hs nofun]
  exact guarded_running (s.withSchedule rest) (fun s => errIsr sel (berrReading s.cfg post) s) hr

theorem step_busError_counts (ht : trips s.cfg.errThreshold (s.errCount + 1) (berrReading s.cfg post) = false) :
    step s = .next ((s.withSchedule rest).withErr (s.errCount + 1)) :=
  (step_busError hr hs).trans (errIsr_counts (s := s.withSchedule rest) ht sel)

theorem step_busError_trips (ht : trips s.cfg.errThreshold (s.errCount + 1) (berrReading s.cfg post) = true)
    (hsel : ∀ k, sel = some k → k < s.env.txFifo.length) :
    step s = .next (errTrip sel (berrReading s.cfg post) ((s.withSchedule rest).withErr (s.errCount + 1))) :=
  (step_busError hr hs).trans (errIsr_trips (s := s.withSchedule rest) ht hsel)

end

/-- Settles O30: which of the handler's two branches is taken is `trips` at the count this error makes. -/
theorem busErrorStep : Obligations.BusErrorStep := by
  intro s v sel post r rest hr hs hsel hreading
  obtain rfl := berrReading_eq_iff.2 hreading
  refine ⟨fun hbelow => ?_, fun hat => ?_, fun hpast heq => ?_⟩
  · exact step_busError_counts hr hs (trips_below hbelow _)
  · have ht : trips s.cfg.errThreshold (s.errCount + 1) (berrReading s.cfg post) = true := by
      rcases hat with hat | ⟨hpast, hge⟩
      · rw [hat]
        exact trips_at_threshold _ _
      · rw [hge]
        exact trips_ge_past hpast
    exact (step_busError_trips hr hs ht hsel).trans (congrArg _ (errTrip_eq _ _ _))
  · refine step_busError_counts hr hs ?_
    rw [heq]
    exact trips_eq_past hpast

/-! ## Errors one after another -/

/-- Errors that stay below the threshold only count, each by one, whatever their readings and selectors. -/
theorem runSteps_busErrors_below {moves rest : List Event} (hr : s.running) (hm : ∀ e ∈ moves, ∃ v sel post, e = .busError v sel post)
    (hs : s.schedule = moves ++ rest) (hbelow : s.errCount + moves.length < s.cfg.errThreshold) :
    runSteps moves.length s = .next ((s.withSchedule rest).withErr (s.errCount + moves.length)) := by
  induction moves generalizing s with
  | nil =>
    obtain rfl : s.schedule = rest := hs
    rfl
  | cons e moves ih =>
    obtain ⟨⟨v, sel, post, rfl⟩, hmoves⟩ := List.forall_mem_cons.1 hm
    have hcount : s.errCount + (Event.busError v sel post :: moves).length = s.errCount + 1 + moves.length :=
      (Nat.succ_add_eq_add_succ _ _).symm
    rw [hcount] at hbelow ⊢
    have counted := step_busError_counts hr hs (trips_below (by omega) _)
    exact runSteps_next counted (ih (s := (s.withSchedule (moves ++ rest)).withErr (s.errCount + 1)) hr hmoves rfl hbelow)

/-- Settles O47: the first four errors stay below the threshold, and the fifth reaches it, where every reading trips. -/
theorem fifthBusErrorAborts : Obligations.FifthBusErrorAborts := by
  intro s v1 v2 v3 v4 v5 l1 l2 l3 l4 sel p1 p2 p3 p4 p5 rest hr hzero hthreshold hsel hs
  have four : runSteps 4 s = .next ((s.withSchedule (.busError v5 sel p5 :: rest)).withErr 4) := by
    have counted := runSteps_busErrors_below (moves := [.busError v1 l1 p1, .busError v2 l2 p2, .busError v3 l3 p3, .busError v4 l4 p4])
      hr (by simp) hs (by simp [hzero, hthreshold])
    rwa [hzero] at counted
  have ht : trips s.cfg.errThreshold 5 (berrReading s.cfg p5) = true := by
    rw [hthreshold]
    exact trips_at_threshold 5 _
  have fifth := step_busError_trips (s := (s.withSchedule (.busError v5 sel p5 :: rest)).withErr 4) hr rfl ht hsel
  refine ⟨four, if berrReading s.cfg p5 = .geReset then 0 else 5, ite_eq_or_eq _ _ _, ?_⟩
  exact (runSteps_add four (runSteps_next fifth rfl)).trans (congrArg _ (errTrip_eq _ _ _))

end Sys2Proof.Machine
end

section
/-! The freeze of a halted block (R251): no agent of the block has a step, so what still moves is the environment and the schedule. -/

namespace Sys2Proof.Machine

variable {s t : State}

theorem State.running.not_halted (hr : s.running) (hh : s.halted = true) : False := by simp [hr.2] at hh

/-- A completion on a halted block takes its slot and runs no handler (log 12). -/
theorem completeTx_frozen (hh : s.halted = true) (h : completeTx s = .next t) : t = { s with env := t.env, schedule := t.schedule } := by
  obtain ⟨slot, l, -, ⟨hr, -⟩ | ⟨-, rfl⟩⟩ := completeTx_next h
  · exact (hr.not_halted hh).elim
  · rfl

/-- A construction that finds the block constructed and halted is lost (R251, R281). -/
theorem construct_halted (hc : s.constructed = true) (hh : s.halted = true) : construct s = s := by simp [construct, hc, hh]

/-- A move of the environment leaves the block aside, and one of the block's agents needs it to run. -/
theorem runEvent_frozen {e : Event} (hc : s.constructed = true) (hh : s.halted = true) (he : e ≠ .restart) (h : runEvent e s = .next t) :
    t = { s with env := t.env, schedule := t.schedule } := by
  have stopped {P : Prop} (hr : s.running) : P := (hr.not_halted hh).elim
  rcases runEvent_next h with ⟨buf, -, rfl⟩ | ⟨fifo, hd, bytes, -, hr, -⟩ | ⟨-, h⟩ | ⟨v, sel, post, -, hr, -⟩ | ⟨b, -, rfl⟩ |
    ⟨-, rfl⟩ | ⟨a, -, hr, -⟩ | ⟨a, -, hr, -⟩ | ⟨F, -, hr, -⟩ | ⟨k, -, hr, -⟩ | ⟨F, -, hr, -⟩ | ⟨-, rfl⟩ | ⟨hrestart, -⟩ | ⟨-, rfl⟩
  · rfl
  · exact stopped hr
  · exact completeTx_frozen hh h
  · exact stopped hr
  · rfl
  · rfl
  · exact stopped hr
  · exact stopped hr
  · exact stopped hr
  · exact stopped hr
  · exact stopped hr
  · rw [construct_halted hc hh]
  · exact absurd hrestart he
  · rfl

/-- Settles O53: a serial line is lost, and of the other moves only a restart writes the block. -/
theorem haltedBlockIsFrozen : Obligations.HaltedBlockIsFrozen := by
  intro s t hc hh hrestart hstep
  rcases step_next hstep with ⟨-, rfl⟩ | ⟨buf, rest, i, -, hr, -⟩ | ⟨buf, rest, -, -, rfl⟩ | ⟨e, rest, hs, -, h⟩
  · rfl
  · exact (hr.not_halted hh).elim
  · rfl
  · have he : e ≠ .restart := fun he => hrestart rest (he ▸ hs)
    exact runEvent_frozen (s := s.withSchedule rest) hc hh he h

end Sys2Proof.Machine
end
